-- ==== Sys2Proof/Word.lean ====
section
/-! DEFINITION. The word types of the CORE (00_scope.md R8, R9) and their plainest helpers. -/

namespace Sys2Proof

/-- A GF element, a coefficient, a codeword: "u8" (00_scope.md R8). -/
abbrev Byte := BitVec 8

/-- A bus word, a command word, a 32-bit register: "u32" (00_scope.md R8). -/
abbrev Word := BitVec 32

/-- `zext_32` (00_scope.md R9). -/
abbrev zext {w : Nat} (v : BitVec w) : Word := v.setWidth 32

/-- One bit as a word: bit 0 is `b`, every other bit 0. -/
abbrev ofBit (b : Bool) : Word := zext (BitVec.ofBool b)

/-- The vector of `n` entries whose entry at `i` is `f i`. -/
def tabulate {α : Type} (n : Nat) (f : Nat → α) : Vector α n :=
  ⟨((List.range n).map f).toArray, by simp⟩

@[simp] theorem getElem_tabulate {α : Type} (n : Nat) (f : Nat → α) (i : Nat) (h : i < n) :
    (tabulate n f)[i] = f i := by
  simp [tabulate]

end Sys2Proof
end

