-- ==== Sys2Proof/Syntax.lean ====
section
/-! DEFINITION. The commands of the CORE, one constructor per row of opcode_table.json (30_encoding.md R104),
their formats (R102) and the operand fields of a command word (R101). -/

namespace Sys2Proof

/-- A polynomial register number: P0 to P3 (30_encoding.md R101, R103). -/
abbrev PReg := Fin 4

/-- The commands (30_encoding.md R104). The operand types hold exactly the values the fields admit (R103). -/
inductive Instr where
  | nop
  | gfMul (a b : Byte)
  | gfDiv (a b : Byte)
  | gfInv (a : Byte)
  | pAdd (rd ra rb : PReg)
  | pMul (rd ra rb : PReg)
  | pRem (rd ra rb : PReg)
  | pMono (rd : PReg) (c k : Byte)
  | pGen (rd : PReg) (n : Byte)
  | pRsenc (rd ra : PReg) (n : Byte)
  | bvClear
  | bvAppend (n : Byte)
  | bvAt
  | bvByteat
  | eccInterleave
  | gridClear
  | gridStruct
  | gridMeta (m : Byte)
  | gridData (m : Byte)
  | gridBuild (m : Byte)
  | gridScore (m : Byte)
  | maskSearch
  deriving DecidableEq, Repr

/-- The formats of a command word (30_encoding.md R102). -/
inductive Format where
  | n | gab | ga | prrr | prii | pri | prri | i
  deriving DecidableEq, Repr

/-- The fields of a command word beside OP (30_encoding.md R101). -/
structure Fields where
  rd : BitVec 2 := 0
  ra : BitVec 2 := 0
  rb : BitVec 2 := 0
  rsv : BitVec 2 := 0
  i1 : Byte := 0
  i2 : Byte := 0
  deriving DecidableEq, Repr

/-- The format of each command (30_encoding.md R104). -/
def Instr.format : Instr → Format
  | .nop => .n
  | .gfMul _ _ => .gab
  | .gfDiv _ _ => .gab
  | .gfInv _ => .ga
  | .pAdd _ _ _ => .prrr
  | .pMul _ _ _ => .prrr
  | .pRem _ _ _ => .prrr
  | .pMono _ _ _ => .prii
  | .pGen _ _ => .pri
  | .pRsenc _ _ _ => .prri
  | .bvClear => .n
  | .bvAppend _ => .i
  | .bvAt => .n
  | .bvByteat => .n
  | .eccInterleave => .n
  | .gridClear => .n
  | .gridStruct => .n
  | .gridMeta _ => .i
  | .gridData _ => .i
  | .gridBuild _ => .i
  | .gridScore _ => .i
  | .maskSearch => .n

/-- The operand fields of each command, every field its format does not use being 0 (30_encoding.md R104, R111). -/
def Instr.fields : Instr → Fields
  | .nop => {}
  | .gfMul a b => { i1 := a, i2 := b }
  | .gfDiv a b => { i1 := a, i2 := b }
  | .gfInv a => { i1 := a }
  | .pAdd rd ra rb => { rd := .ofFin rd, ra := .ofFin ra, rb := .ofFin rb }
  | .pMul rd ra rb => { rd := .ofFin rd, ra := .ofFin ra, rb := .ofFin rb }
  | .pRem rd ra rb => { rd := .ofFin rd, ra := .ofFin ra, rb := .ofFin rb }
  | .pMono rd c k => { rd := .ofFin rd, i1 := c, i2 := k }
  | .pGen rd n => { rd := .ofFin rd, i1 := n }
  | .pRsenc rd ra n => { rd := .ofFin rd, ra := .ofFin ra, i1 := n }
  | .bvClear => {}
  | .bvAppend n => { i1 := n }
  | .bvAt => {}
  | .bvByteat => {}
  | .eccInterleave => {}
  | .gridClear => {}
  | .gridStruct => {}
  | .gridMeta m => { i1 := m }
  | .gridData m => { i1 := m }
  | .gridBuild m => { i1 := m }
  | .gridScore m => { i1 := m }
  | .maskSearch => {}

end Sys2Proof
end

