-- ==== Sys2Proof/WellFormed.lean ====
section
/-! DEFINITION. Well-formed fields: "Every field a format does not use must be 0" (30_encoding.md R102), and
RSV is "reserved, must be 0 in every format" (R101). An Instr is well formed by its operand types; the check
that can fail is the one on the fields of a word. -/

namespace Sys2Proof

namespace Format

/-- RD is a field of the format (30_encoding.md R102). -/
def usesRd : Format → Bool
  | .prrr | .prii | .pri | .prri => true
  | .n | .gab | .ga | .i => false

/-- RA is a field of the format (30_encoding.md R102). -/
def usesRa : Format → Bool
  | .prrr | .prri => true
  | .n | .gab | .ga | .prii | .pri | .i => false

/-- RB is a field of the format (30_encoding.md R102). -/
def usesRb : Format → Bool
  | .prrr => true
  | .n | .gab | .ga | .prii | .pri | .prri | .i => false

/-- I1 is a field of the format (30_encoding.md R102). -/
def usesI1 : Format → Bool
  | .gab | .ga | .prii | .pri | .prri | .i => true
  | .n | .prrr => false

/-- I2 is a field of the format (30_encoding.md R102). -/
def usesI2 : Format → Bool
  | .gab | .prii => true
  | .n | .ga | .prrr | .pri | .prri | .i => false

end Format

/-- Every field the format does not use is 0, and RSV is 0 (30_encoding.md R101, R102). -/
def Fields.wellFormed (fmt : Format) (f : Fields) : Bool :=
  f.rsv == 0 && (fmt.usesRd || f.rd == 0) && (fmt.usesRa || f.ra == 0) && (fmt.usesRb || f.rb == 0)
    && (fmt.usesI1 || f.i1 == 0) && (fmt.usesI2 || f.i2 == 0)

/-- A command's own fields are well formed for its format. -/
def Instr.wellFormed (i : Instr) : Bool := i.fields.wellFormed i.format

end Sys2Proof
end

