-- ==== Sys2Proof/Decode.lean ====
section
/-! DEFINITION. The decoder and the encoder of a command word (30_encoding.md R100 to R111), written from the
opcode map (R104) and the format masks (R102). The decoder is total and rejects by name. -/

namespace Sys2Proof

/-- Why a word is no command (30_encoding.md R105). Both reasons raise ILLEGAL_CMD at the sequencer's step. -/
inductive DecodeError where
  /-- No row of R104 has this OP. -/
  | reservedOpcode (op : Byte)
  /-- A bit that the format requires to be zero is 1. -/
  | nonzeroReservedField (op : Byte)
  deriving DecidableEq, Repr

/-- The fields of a word (30_encoding.md R101). -/
def Fields.ofWord (w : Word) : Fields where
  rd := w.extractLsb' 8 2
  ra := w.extractLsb' 10 2
  rb := w.extractLsb' 12 2
  rsv := w.extractLsb' 14 2
  i1 := w.extractLsb' 16 8
  i2 := w.extractLsb' 24 8

/-- OP, bits [7:0] of a word (30_encoding.md R101). -/
def opcodeOf (w : Word) : Byte := w.extractLsb' 0 8

/-- The mask of a format: the bits that are fixed (30_encoding.md R102). -/
def Format.mask : Format → Word
  | .n => 0xFFFFFFFF
  | .gab => 0x0000FFFF
  | .ga => 0xFF00FFFF
  | .prrr => 0xFFFFC0FF
  | .prii => 0x0000FCFF
  | .pri => 0xFF00FCFF
  | .prri => 0xFF00F0FF
  | .i => 0xFF00FFFF

/-- The row of R104 with this OP, filled with the word's fields; none for the 234 reserved opcodes (R106). -/
def Instr.ofOpcode (op : Byte) (f : Fields) : Option Instr :=
  match op.toNat with
  | 0x00 => some .nop
  | 0x10 => some (.gfMul f.i1 f.i2)
  | 0x11 => some (.gfDiv f.i1 f.i2)
  | 0x12 => some (.gfInv f.i1)
  | 0x20 => some (.pAdd f.rd.toFin f.ra.toFin f.rb.toFin)
  | 0x21 => some (.pMul f.rd.toFin f.ra.toFin f.rb.toFin)
  | 0x22 => some (.pRem f.rd.toFin f.ra.toFin f.rb.toFin)
  | 0x23 => some (.pMono f.rd.toFin f.i1 f.i2)
  | 0x28 => some (.pGen f.rd.toFin f.i1)
  | 0x29 => some (.pRsenc f.rd.toFin f.ra.toFin f.i1)
  | 0x30 => some .bvClear
  | 0x31 => some (.bvAppend f.i1)
  | 0x32 => some .bvAt
  | 0x33 => some .bvByteat
  | 0x38 => some .eccInterleave
  | 0x40 => some .gridClear
  | 0x41 => some .gridStruct
  | 0x42 => some (.gridMeta f.i1)
  | 0x43 => some (.gridData f.i1)
  | 0x44 => some (.gridBuild f.i1)
  | 0x48 => some (.gridScore f.i1)
  | 0x49 => some .maskSearch
  | _ => none

/-- Decoding a command word (30_encoding.md R105). -/
def decode (w : Word) : Except DecodeError Instr :=
  match Instr.ofOpcode (opcodeOf w) (.ofWord w) with
  | none => .error (.reservedOpcode (opcodeOf w))
  | some i => if w &&& i.format.mask = zext (opcodeOf w) then .ok i else .error (.nonzeroReservedField (opcodeOf w))

/-- The host's entry to the decoder: a command word is one 32-bit word (30_encoding.md R100), bit 0 its least
significant bit, and the bits above `nbits` are 0. -/
def decodeTableWord (nbits w : Nat) : Option Instr :=
  match decode (BitVec.ofNat 32 (w % 2 ^ nbits)) with
  | .ok i => some i
  | .error _ => none

/-- OP of each command (30_encoding.md R104). -/
def Instr.opcode : Instr → Byte
  | .nop => 0x00
  | .gfMul _ _ => 0x10
  | .gfDiv _ _ => 0x11
  | .gfInv _ => 0x12
  | .pAdd _ _ _ => 0x20
  | .pMul _ _ _ => 0x21
  | .pRem _ _ _ => 0x22
  | .pMono _ _ _ => 0x23
  | .pGen _ _ => 0x28
  | .pRsenc _ _ _ => 0x29
  | .bvClear => 0x30
  | .bvAppend _ => 0x31
  | .bvAt => 0x32
  | .bvByteat => 0x33
  | .eccInterleave => 0x38
  | .gridClear => 0x40
  | .gridStruct => 0x41
  | .gridMeta _ => 0x42
  | .gridData _ => 0x43
  | .gridBuild _ => 0x44
  | .gridScore _ => 0x48
  | .maskSearch => 0x49

/-- `{I2, I1, RSV, RB, RA, RD, OP}` as one word (30_encoding.md R101). -/
def Fields.toWord (op : Byte) (f : Fields) : Word :=
  (zext f.i2 <<< 24) ||| (zext f.i1 <<< 16) ||| (zext f.rsv <<< 14) ||| (zext f.rb <<< 12) ||| (zext f.ra <<< 10)
    ||| (zext f.rd <<< 8) ||| zext op

/-- The encoding function (30_encoding.md R111): the one word of a command. -/
def encode (i : Instr) : Word := i.fields.toWord i.opcode

end Sys2Proof
end

