-- ==== Sys2Proof/Config.lean ====
section
/-! DEFINITION. The CORE's parameters (00_scope.md R6) and the free values: what the spec leaves open. -/

namespace Sys2Proof.Config

/-- VMAX: symbol versions are 1 to 40 (00_scope.md R6). -/
def versionMax : Nat := 40

/-- The side of the largest symbol, and of the module array GRID (10_state.md R45). -/
def gridMax : Nat := 177

/-- QZ: the quiet zone's width in modules (00_scope.md R6). -/
def quietZone : Nat := 4

/-- NMASK: mask ids and score slots are 0 to 7 (00_scope.md R6). -/
def maskCount : Nat := 8

/-- PMAX: coefficients per polynomial register (00_scope.md R6). -/
def polyMax : Nat := 256

/-- BVMAX: the bit vector's capacity in bits (00_scope.md R6). -/
def bvMax : Nat := 32768

/-- CWMAX: the codeword stream's capacity in bits (00_scope.md R6). -/
def cwMax : Nat := 32768

/-- The constant of the ID register (10_state.md R21). -/
def idWord : Word := 0x51524331

/-- BASE, the aperture's place in the host's map: OPEN (20_memory.md R71). No rule of the CORE uses it: every
access of the model is an offset. DESIGN CHOICE, log 9. -/
opaque base : Nat

/-- The host address of an offset (20_memory.md R71). -/
def hostAddress (off : BitVec 20) : Nat := base + off.toNat

/-- The coefficients of the polynomial registers after a reset: "A model takes a free draw per coefficient at
the reset, under no law" (70_reset_and_hazards.md R342). Applied to the counter `draws` of State; it has no
body, so nothing can be proved of a value of it. DESIGN CHOICE of the form, safe, log 2. -/
opaque freeCoeff : Nat → Byte

/-- What a read returns that the spec leaves unspecified while BUSY = 1: "A model takes a free draw of 32 bits
for it, under no law" (20_memory.md R90). DESIGN CHOICE of the form, safe, log 3. -/
opaque freeWord : Nat → Word

end Sys2Proof.Config
end

