-- ==== Sys2Proof/Machine/State.lean ====
section
/-! DEFINITION. The state of the CORE (10_state.md R20 to R49) as plain data, the reasons a step can stop, and
the state after reset (70_reset_and_hazards.md R340). -/

namespace Sys2Proof.Machine

/-- A byte memory: (address, byte) pairs in one canonical form, addresses strictly rising and no byte equal to
what an unlisted address reads as. The RAMs of BV and CW are held so (10_state.md R43, R44). -/
abbrev Memory := List Host.Cell

/-- A bit vector in a byte-packed RAM with a length register: BV (10_state.md R43) and CW (R44). The RAM holds
the bits above the length too; every read path masks them (R47). -/
structure BitRam where
  ram : Memory
  len : BitVec 16
  deriving DecidableEq, Repr

/-- A polynomial register: 256 coefficients, index i the coefficient of x^i, and its PLEN register
(10_state.md R29, R42). -/
structure PolyReg where
  c : Vector Byte 256
  len : BitVec 9
  deriving DecidableEq, Repr

/-- G1 and G2: the block structure of one group (10_state.md R34). -/
structure Group where
  count : Byte
  total : Byte
  data : Byte
  deriving DecidableEq, Repr

/-- One module of the grid: its value (true = dark) and its used flag (10_state.md R45). -/
structure Module where
  val : Bool
  used : Bool
  deriving DecidableEq, Repr

/-- The module array: `g[y][x]` is the module in column x, row y (10_state.md R45). -/
abbrev Grid := Vector (Vector Module 177) 177

/-- One score slot: the four penalties and their sum (10_state.md R40). -/
structure Scores where
  p1 : Word
  p2 : Word
  p3 : Word
  p4 : Word
  total : Word
  deriving DecidableEq, Repr

/-- The width of a bus access: "They exist only at width 4" (00_scope.md R10); the others are refused
(20_memory.md R72). -/
inductive Width where
  | bits8 | bits16 | bits32
  deriving DecidableEq, Repr

/-- What an access does. -/
inductive Direction where
  | read
  | write (v : Word)
  deriving DecidableEq, Repr

/-- One bus access of the host: an offset of the 1 MiB aperture (20_memory.md R70), a width and byte enables
(R72). -/
structure Access where
  off : BitVec 20
  width : Width
  enables : BitVec 4
  dir : Direction
  deriving DecidableEq, Repr

/-- Whose step comes next (00_scope.md R15, 40_command.md R132): a bus access of the host, the host's reset
input, or the sequencer. The order of host steps and the sequencer's step is free; a list of turns is one
such order. DESIGN CHOICE, safe, log 1. -/
inductive Turn where
  | access (a : Access)
  | hardReset
  | sequencer
  deriving DecidableEq, Repr

/-- Everything the spec gives the CORE (10_state.md R20), and three fields of the model's own (`turns`, `rdata`,
`draws`). STATUS.BUSY is 1 exactly while `pending` holds a word (R47), so it is stored once, there. -/
structure State where
  /-- CTRL.IRQ_EN (R23). -/
  irqEn : Bool
  /-- STATUS.DONE (R24). -/
  done : Bool
  /-- STATUS.ERR (R24). -/
  err : Bool
  /-- STATUS.ERRCODE (R24). -/
  errcode : BitVec 8
  /-- PENDING, the command word accepted and not yet completed (R47). -/
  pending : Option Word
  /-- LASTCMD, what a read of CMD returns (R25). -/
  lastcmd : Word
  /-- ARG0 (R26). -/
  arg0 : Word
  /-- RESULT (R27). -/
  result : Word
  /-- ERRINFO (R28). -/
  errinfo : Word
  /-- P0 to P3 and PLEN0 to PLEN3 (R29, R42). -/
  polys : Vector PolyReg 4
  /-- BV and BV_LEN (R30, R43). -/
  bv : BitRam
  /-- CW and CW_LEN (R31, R44). -/
  cw : BitRam
  /-- VERSION (R32). -/
  version : BitVec 6
  /-- LEVEL (R33). -/
  level : BitVec 2
  /-- G1 (R34). -/
  g1 : Group
  /-- G2 (R34). -/
  g2 : Group
  /-- REMBITS (R35). -/
  rembits : BitVec 3
  /-- GRID_VER, 0 = no grid (R36). -/
  gridVer : BitVec 6
  /-- GRID (R45). -/
  grid : Grid
  /-- BEST.VALID (R37). -/
  bestValid : Bool
  /-- BEST.MASK (R37). -/
  bestMask : BitVec 3
  /-- BEST_PEN (R37). -/
  bestPen : Word
  /-- SCORE[0..7] (R40). -/
  score : Vector Scores 8
  /-- The model's own: the turns still to come. Log 1. -/
  turns : List Turn
  /-- The model's own: what the CORE returned on the host's last read. Log 6. -/
  rdata : Word
  /-- The model's own: how many free values have been drawn. Log 13. -/
  draws : Nat
  deriving DecidableEq, Repr

/-- The errors a command or a host write can raise (60_exceptions.md R310). -/
inductive ErrCode where
  | illegalCmd
  | busy
  | gfZeroDivisor
  | gfZeroInverse
  | polyZeroDivisor
  | polyOverflow
  | polyLength
  | bvOverflow
  | bvRange
  | badOperand
  | badConfig
  | dataLength
  | cwOverflow
  | badMask
  | capacity
  | noGrid
  deriving DecidableEq, Repr

/-- Why the machine stops with a fault: never. Every error of the CORE is a recorded error and a next state
(60_exceptions.md R311, R316), so the type has no constructor. -/
inductive Fault where
  deriving DecidableEq, Repr

/-- Why a step has no meaning. -/
inductive Refusal where
  /-- Raised by an arm of exec that has no meaning yet, by its mnemonic. Safe. -/
  | notModelled (mnemonic : String)
  /-- Raised by a host access of 8 or 16 bits or with partial byte enables: "A model refuses such an access: it
  has no step" (20_memory.md R72). Safe. -/
  | narrowAccess
  /-- Raised by a host access at an offset that is not a multiple of 4 (20_memory.md R72). Safe. -/
  | misalignedAccess
  deriving DecidableEq, Repr

/-- A bit RAM after reset: length 0 (70_reset_and_hazards.md R340). Its contents are "unspecified and never
observable"; the model lists nothing. DESIGN CHOICE, log 4. -/
def BitRam.empty : BitRam := ⟨[], 0⟩

/-- The module that is light and unused. -/
def Module.blank : Module := ⟨false, false⟩

/-- The grid with every module light and unused (45_symbol.md R241). -/
def Grid.blank : Grid := .replicate 177 (.replicate 177 .blank)

/-- The reset value of a group (10_state.md R22). -/
def Group.zero : Group := ⟨0, 0, 0⟩

/-- The reset value of a score slot (10_state.md R22). -/
def Scores.zero : Scores := ⟨0, 0, 0, 0, 0⟩

/-- The reset state (70_reset_and_hazards.md R340), where `d` free values have been drawn before: the reset
draws one for each coefficient of P0 to P3 (R342). The contents of the grid are "unspecified and never
observable": DESIGN CHOICE blank, log 5. -/
def State.afterReset (d : Nat) : State where
  irqEn := false
  done := false
  err := false
  errcode := 0
  pending := none
  lastcmd := 0
  arg0 := 0
  result := 0
  errinfo := 0
  polys := tabulate 4 fun p => ⟨tabulate 256 fun i => Config.freeCoeff (d + 256 * p + i), 0⟩
  bv := .empty
  cw := .empty
  version := 1
  level := 0
  g1 := .zero
  g2 := .zero
  rembits := 0
  gridVer := 0
  grid := .blank
  bestValid := false
  bestMask := 0
  bestPen := 0
  score := .replicate 8 .zero
  turns := []
  rdata := 0
  draws := d + 1024

/-- The machine right after the first reset (70_reset_and_hazards.md R340). -/
def State.reset : State := .afterReset 0

end Sys2Proof.Machine
end

