-- ==== Sys2Proof/Machine/Ops.lean ====
section
/-! DEFINITION. The named operations over memory, bit RAMs and the grid; and the entry of an error
(60_exceptions.md R311), the return from one (R315, R316) and a command's completion (40_command.md R133). -/

namespace Sys2Proof.Machine

/-- The three outcomes of a step of this machine. -/
abbrev Outcome := Host.Outcome State Fault Refusal

/-! ## Byte memory -/

namespace Memory

/-- What an unlisted address reads as. The spec leaves the BV and CW RAM's contents after reset unspecified and
never observable (70_reset_and_hazards.md R340). DESIGN CHOICE, log 4. -/
def unlisted : Byte := 0

/-- The byte at an address. -/
def read : Memory → Nat → Byte
  | [], _ => unlisted
  | (a, b) :: m, k => if a = k then b else read m k

/-- Writing a byte. The canonical form is kept: writing what an unlisted address reads as removes the cell. -/
def write : Memory → Nat → Byte → Memory
  | [], k, v => if v = unlisted then [] else [(k, v)]
  | (a, b) :: m, k, v =>
    if a < k then (a, b) :: write m k v
    else if a = k then (if v = unlisted then m else (k, v) :: m)
    else if v = unlisted then (a, b) :: m else (k, v) :: (a, b) :: m

/-- The canonical form: addresses strictly rising, and no byte equal to what an unlisted address reads as. -/
abbrev wf (m : Memory) : Prop :=
  m.Pairwise (fun a b => a.1 < b.1) ∧ ∀ c ∈ m, c.2 ≠ unlisted

end Memory

/-! ## Bit RAMs -/

/-- A byte with bit `i` set to `b`. -/
def setByteBit (v : Byte) (i : Nat) (b : Bool) : Byte :=
  if b then v ||| (1#8 <<< i) else v &&& ~~~(1#8 <<< i)

/-- The byte whose bits, most significant first, are `f 0` to `f 7` (44_bitvector.md R210). -/
def byteOfBits (f : Nat → Bool) : Byte :=
  BitVec.ofBoolListBE [f 0, f 1, f 2, f 3, f 4, f 5, f 6, f 7]

/-- The bits of a byte, most significant first (44_bitvector.md R210). -/
def bitsOfByte (b : Byte) : List Bool := (List.range 8).map fun k => b.getLsbD (7 - k)

namespace BitRam

/-- Bit k is bit `7 - (k mod 8)` of byte `k div 8` (10_state.md R43). -/
def bit (r : BitRam) (k : Nat) : Bool := (Memory.read r.ram (k / 8)).getLsbD (7 - k % 8)

/-- `bitm`: bits at or above the length read 0 on every read path (20_memory.md R77, R80). -/
def bitm (r : BitRam) (k : Nat) : Bool := if k < r.len.toNat then r.bit k else false

/-- The masked byte whose first bit is bit k (44_bitvector.md R214). -/
def byteAt (r : BitRam) (k : Nat) : Byte := byteOfBits fun j => r.bitm (k + j)

/-- The bits below the length, in order (10_state.md R43). -/
def bits (r : BitRam) : List Bool := (List.range r.len.toNat).map r.bit

/-- Word w of the byte-packed window: byte 4w + k in bits [8k+7 : 8k] (20_memory.md R73, R77, R80). -/
def window (r : BitRam) (w : Nat) : Word :=
  r.byteAt (8 * (4 * w + 3)) ++ r.byteAt (8 * (4 * w + 2)) ++ r.byteAt (8 * (4 * w + 1)) ++ r.byteAt (8 * (4 * w))

end BitRam

/-- The RAM with bit k set to b, in the layout of 10_state.md R43. -/
def setRamBit (m : Memory) (k : Nat) (b : Bool) : Memory :=
  Memory.write m (k / 8) (setByteBit (Memory.read m (k / 8)) (7 - k % 8) b)

/-- The RAM with the given bits stored from bit k on. -/
def setRamBits (m : Memory) : Nat → List Bool → Memory
  | _, [] => m
  | k, b :: bs => setRamBits (setRamBit m k b) (k + 1) bs

/-- The bit RAM with bits stored from bit k on, and the length set to the end of them. The commands check the end against
32768 first; past 65535 the length would wrap: DESIGN CHOICE, safe, log 16. -/
def BitRam.storeAt (r : BitRam) (k : Nat) (bs : List Bool) : BitRam :=
  ⟨setRamBits r.ram k bs, .ofNat 16 (k + bs.length)⟩

/-! ## The grid -/

/-- SIDE(v) (00_scope.md R6). For v = 0, which is no version, it is 21 and no command uses it: DESIGN CHOICE, safe, log 16. -/
def side (v : BitVec 6) : Nat := 21 + 4 * (v.toNat - 1)

namespace Grid

/-- The module at (x, y). Outside the 177 × 177 array there is none: it reads blank, log 11. -/
def get (g : Grid) (x y : Nat) : Module :=
  if h : x < 177 ∧ y < 177 then g[y][x] else .blank

/-- The grid with the module at (x, y) replaced. Outside the array nothing is stored, log 11. -/
def setModule (g : Grid) (x y : Nat) (m : Module) : Grid :=
  if h : x < 177 ∧ y < 177 then g.set y (g[y].set x m) else g

/-- `put` (45_symbol.md R242). -/
def put (g : Grid) (x y : Nat) (b : Bool) : Grid := g.setModule x y ⟨b, true⟩

/-- The unused modules of row y of the s × s symbol. -/
def emptyInRow (g : Grid) (s y : Nat) : Nat := (List.range s).countP fun x => !(g.get x y).used

/-- The number of unused modules of the s × s symbol (10_state.md R38). -/
def empty (g : Grid) (s : Nat) : Nat := ((List.range s).map (g.emptyInRow s)).sum

end Grid

/-- EMPTY (10_state.md R38). -/
def State.emptyCount (s : State) : Nat := if s.gridVer = 0 then 0 else s.grid.empty (side s.gridVer)

/-! ## Error entry, return, completion -/

/-- ERRCODE's value for each error (60_exceptions.md R310). -/
def ErrCode.code : ErrCode → BitVec 8
  | .illegalCmd => 0x01
  | .busy => 0x02
  | .gfZeroDivisor => 0x03
  | .gfZeroInverse => 0x04
  | .polyZeroDivisor => 0x05
  | .polyOverflow => 0x06
  | .polyLength => 0x07
  | .bvOverflow => 0x08
  | .bvRange => 0x09
  | .badOperand => 0x0A
  | .badConfig => 0x0B
  | .dataLength => 0x0C
  | .cwOverflow => 0x0D
  | .badMask => 0x0E
  | .capacity => 0x0F
  | .noGrid => 0x10

/-- Recording an error: the first one is kept, a later one changes nothing (60_exceptions.md R311, R316; the
BUSY error of a refused write too, 40_command.md R136). -/
def State.recordError (s : State) (e : ErrCode) (info : Word) : State :=
  if s.err then s else { s with err := true, errcode := e.code, errinfo := info }

/-- The command word in execution (40_command.md R133). In a state with no pending command, which no execution
starts from, it is 0: DESIGN CHOICE, safe, log 8. -/
def State.commandWord (s : State) : Word := s.pending.getD 0

/-- `raise Fault(code)` at the sequencer's step: the error record, DONE unchanged, BUSY cleared
(60_exceptions.md R311). -/
def State.raise (s : State) (e : ErrCode) : State :=
  { s.recordError e s.commandWord with pending := none }

/-- The completion of a command without a fault: DONE set, BUSY cleared (40_command.md R133). -/
def State.complete (s : State) : State := { s with done := true, pending := none }

/-- A command that ends with an error. -/
def trap (e : ErrCode) (s : State) : Outcome := .next (s.raise e)

/-- A command that completes, leaving s. -/
def finish (s : State) : Outcome := .next s.complete

/-- The return from an error, and the acknowledgement of a completion: a host write to STATUS
(60_exceptions.md R315). Bit 2 clears ERR and ERRCODE, bit 1 clears DONE. -/
def State.writeStatus (s : State) (v : Word) : State :=
  { s with
    done := s.done && !v.getLsbD 1
    err := s.err && !v.getLsbD 2
    errcode := if v.getLsbD 2 then 0 else s.errcode }

/-- The effect of a reset, hardware or soft (70_reset_and_hazards.md R340, R341): every piece of the CORE's state
at its reset value; the host's side (`turns`, `rdata`) goes on, and the free draws are new ones (R342, logs 13, 14). -/
def State.resetCore (s : State) : State :=
  { State.afterReset s.draws with turns := s.turns, rdata := s.rdata }

end Sys2Proof.Machine
end

