-- ==== Sys2Proof/Machine/Flags.lean ====
section
/-! DEFINITION. The flags of the CORE (10_state.md R24, R49): STATUS as a word, BUSY, the interrupt output
(60_exceptions.md R320), the acceptance of a command word (40_command.md R131). -/

namespace Sys2Proof.Machine

/-- STATUS.BUSY: 1 exactly while PENDING exists (10_state.md R47). -/
def State.busy (s : State) : Bool := s.pending.isSome

/-- STATUS as read: BUSY bit 0, DONE bit 1, ERR bit 2, ERRCODE bits [15:8] (10_state.md R22, R24). -/
def State.statusWord (s : State) : Word :=
  ofBit s.busy ||| (ofBit s.done <<< 1) ||| (ofBit s.err <<< 2) ||| (zext s.errcode <<< 8)

/-- CTRL as read: IRQ_EN bit 0; SRESET reads 0 (10_state.md R23). -/
def State.ctrlWord (s : State) : Word := ofBit s.irqEn

/-- BEST as read: MASK bits [2:0], VALID bit 31 (10_state.md R22, R37). -/
def State.bestWord (s : State) : Word := zext s.bestMask ||| (ofBit s.bestValid <<< 31)

/-- The interrupt output (60_exceptions.md R320). A function of State, not a field: log 15. -/
def State.irq (s : State) : Bool := s.irqEn && (s.done || s.err)

/-- A host write of a command word while BUSY = 0 (40_command.md R131): dropped while ERR = 1, otherwise
accepted. Acceptance does not decode it. -/
def State.offerCommand (s : State) (w : Word) : State :=
  if s.err then s else { s with pending := some w, lastcmd := w, done := false }

/-- A host write refused while BUSY = 1 (40_command.md R136): the BUSY error, with the byte offset. -/
def State.refuseWrite (s : State) (off : BitVec 20) : State := s.recordError .busy (zext off)

end Sys2Proof.Machine
end

