-- ==== Sys2Proof/Machine/Operands.lean ====
section
/-! DEFINITION. Operand assembly (30_encoding.md R103): polynomial registers by value (42_gfpoly.md R170) and
their results (R171), immediates, the recovery level. -/

namespace Sys2Proof.Machine

/-- A polynomial: coefficients from x^0 upward (00_scope.md R11). -/
abbrev Poly := List Byte

/-- Drops the zero leading terms (42_gfpoly.md R170). -/
def Poly.normalize : Poly → Poly
  | [] => []
  | c :: cs =>
    match Poly.normalize cs with
    | [] => if c = 0 then [] else [c]
    | d :: ds => c :: d :: ds

/-- The length register is legal: at most 256 (42_gfpoly.md R170). -/
def PolyReg.lengthOk (p : PolyReg) : Bool := p.len.toNat ≤ Config.polyMax

/-- The value of a polynomial register: its coefficients below PLEN, normalized (42_gfpoly.md R170). -/
def PolyReg.value (p : PolyReg) : Poly := Poly.normalize (p.c.toList.take p.len.toNat)

/-- The register that holds a polynomial result: the coefficients above it 0, PLEN its length
(42_gfpoly.md R171, for a length of at most 256, which every command's result has). A longer list is cut: DESIGN CHOICE, safe, log 16. -/
def PolyReg.ofPoly (r : Poly) : PolyReg :=
  ⟨tabulate 256 fun i => r.getD i 0, .ofNat 9 r.length⟩

/-- `readpoly(p)` (42_gfpoly.md R170): none where the command faults with POLY_LENGTH. -/
def State.readPoly (s : State) (p : PReg) : Option Poly :=
  if s.polys[p].lengthOk then some s.polys[p].value else none

/-- Writing a polynomial result to register d (42_gfpoly.md R171). -/
def State.writePoly (s : State) (d : PReg) (r : Poly) : State :=
  { s with polys := s.polys.set d (.ofPoly r) }

/-- Writing RESULT, zero-extended (10_state.md R27). -/
def State.writeResult {w : Nat} (s : State) (v : BitVec w) : State := { s with result := zext v }

/-- VERSION is in 1..40 (45_symbol.md R240). -/
def versionOk (v : BitVec 6) : Bool := 1 ≤ v.toNat ∧ v.toNat ≤ Config.versionMax

/-- A mask id or score slot is in 0..7 (45_symbol.md R256, 46_mask.md R289). -/
def maskOk (m : Byte) : Bool := m.toNat < Config.maskCount

/-- The 2-bit level field of the format info, by the LEVEL register (45_symbol.md R250). -/
def levelBits (level : BitVec 2) : Nat :=
  match level.toNat with
  | 0 => 0b01
  | 1 => 0b00
  | 2 => 0b11
  | _ => 0b10

end Sys2Proof.Machine
end

