-- ==== Sys2Proof/Machine/Gf.lean ====
section
/-! DEFINITION. GF(2^8) arithmetic: the field operations (41_gf256.md R151) and GF_MUL, GF_DIV, GF_INV
(R152 to R154). Field addition is exclusive or (00_scope.md R12). -/

namespace Sys2Proof.Machine

/-- `gfmul` (41_gf256.md R151). -/
def gfmul (a b : Byte) : Byte :=
  if a = 0 ∨ b = 0 then 0 else expAt ((logAt a + logAt b) % 255)

/-- `gfdiv` (41_gf256.md R151), "defined only for b ≠ 0": every caller has checked b. DESIGN CHOICE at b = 0, safe, log 16. The difference of
the logs is taken modulo 255, in 0..254. -/
def gfdiv (a b : Byte) : Byte :=
  if a = 0 then 0 else expAt ((logAt a + 255 - logAt b) % 255)

/-- `gfinv` (41_gf256.md R151), "defined only for a ≠ 0": its caller has checked a. DESIGN CHOICE at
a = 0, safe, log 16. -/
def gfinv (a : Byte) : Byte := expAt ((255 - logAt a) % 255)

/-- GF_MUL (41_gf256.md R152). -/
def execGfMul (a b : Byte) (s : State) : Outcome := finish (s.writeResult (gfmul a b))

/-- GF_DIV (41_gf256.md R153): a zero divisor faults, whatever a is. -/
def execGfDiv (a b : Byte) (s : State) : Outcome :=
  if b = 0 then trap .gfZeroDivisor s else finish (s.writeResult (gfdiv a b))

/-- GF_INV (41_gf256.md R154). -/
def execGfInv (a : Byte) (s : State) : Outcome :=
  if a = 0 then trap .gfZeroInverse s else finish (s.writeResult (gfinv a))

end Sys2Proof.Machine
end

