-- ==== Sys2Proof/Machine/Poly.lean ====
section
/-! DEFINITION. Polynomial algebra over GF(2^8) and P_ADD, P_MUL, P_REM, P_MONO (42_gfpoly.md R173 to R176). -/

namespace Sys2Proof.Machine

namespace Poly

/-- The term-wise sum, as long as the longer operand (42_gfpoly.md R173, before normalization). -/
def addRaw : Poly → Poly → Poly
  | [], bs => bs
  | as, [] => as
  | a :: as, b :: bs => (a ^^^ b) :: addRaw as bs

/-- The polynomial times the constant q. -/
def scale (q : Byte) (p : Poly) : Poly := p.map (gfmul q)

/-- The polynomial times x^k, before normalization. -/
def shift (k : Nat) (p : Poly) : Poly := List.replicate k 0 ++ p

/-- The convolution (42_gfpoly.md R174): (a + x·as)·b = a·b + x·(as·b). -/
def mulRaw : Poly → Poly → Poly
  | [], _ => []
  | a :: as, bs => addRaw (scale a bs) (0 :: mulRaw as bs)

/-- The sum (42_gfpoly.md R173). -/
def add (a b : Poly) : Poly := normalize (addRaw a b)

/-- The product (42_gfpoly.md R174): the zero polynomial if a factor is zero. -/
def mul (a b : Poly) : Poly := if a = [] ∨ b = [] then [] else mulRaw a b

/-- `lead(p)`, the highest coefficient, "defined only when the length is at least 1" (00_scope.md R11). Of the zero polynomial, whose
lead no command takes, the function gives 0: DESIGN CHOICE, safe, log 16. -/
def lead (p : Poly) : Byte := p.getLastD 0

/-- One pass of the remainder loop (42_gfpoly.md R175). -/
def remStep (r d : Poly) : Poly :=
  add r (shift (r.length - d.length) (scale (gfdiv (lead r) (lead d)) d))

/-- The remainder loop with a bound on its passes (42_gfpoly.md R175). Each pass shortens r. -/
def remLoop : Nat → Poly → Poly → Poly
  | 0, r, _ => r
  | fuel + 1, r, d => if r.length < d.length then r else remLoop fuel (remStep r d) d

/-- The remainder of n by d ≠ 0 (42_gfpoly.md R175): "at most len(N) - len(D) + 1" passes. No command divides by zero: log 16. -/
def rem (n d : Poly) : Poly := remLoop (n.length + 1) n d

/-- The monomial c·x^k (42_gfpoly.md R176, where k is a u8). -/
def monomial (c : Byte) (k : Nat) : Poly := if c = 0 then [] else shift k [c]

end Poly

/-- P_ADD (42_gfpoly.md R173). Both operands are read before the result is written (R172). -/
def execPAdd (rd ra rb : PReg) (s : State) : Outcome :=
  match s.readPoly ra, s.readPoly rb with
  | some a, some b => finish (s.writePoly rd (Poly.add a b))
  | _, _ => trap .polyLength s

/-- P_MUL (42_gfpoly.md R174): a zero operand never overflows. -/
def execPMul (rd ra rb : PReg) (s : State) : Outcome :=
  match s.readPoly ra, s.readPoly rb with
  | some a, some b =>
    if a ≠ [] ∧ b ≠ [] ∧ Config.polyMax < a.length + b.length - 1 then trap .polyOverflow s
    else finish (s.writePoly rd (Poly.mul a b))
  | _, _ => trap .polyLength s

/-- P_REM (42_gfpoly.md R175). -/
def execPRem (rd ra rb : PReg) (s : State) : Outcome :=
  match s.readPoly ra, s.readPoly rb with
  | some n, some d =>
    if d = [] then trap .polyZeroDivisor s else finish (s.writePoly rd (Poly.rem n d))
  | _, _ => trap .polyLength s

/-- P_MONO (42_gfpoly.md R176). -/
def execPMono (rd : PReg) (c k : Byte) (s : State) : Outcome :=
  finish (s.writePoly rd (Poly.monomial c k.toNat))

end Sys2Proof.Machine
end

