-- ==== Sys2Proof/Machine/ReedSolomon.lean ====
section
/-! DEFINITION. The Reed–Solomon encoder: the generator polynomial (43_reed_solomon.md R190), the ECC function
(R192), P_GEN (R191) and P_RSENC (R193). -/

namespace Sys2Proof.Machine

/-- g_n (43_reed_solomon.md R190), the product taken left to right: g_(i+1) = g_i · [EXP[i], 1]. The spec defines
it "for n in 0..255"; above 255, which no command asks for, the recursion goes on with the table as `expAt` reads it: DESIGN CHOICE,
safe, log 16. -/
def genPoly : Nat → Poly
  | 0 => [1]
  | n + 1 => Poly.mul (genPoly n) [expAt n, 1]

/-- (A · x^n) mod g_n at full width, for a normalized A (43_reed_solomon.md R193). The rule's n is a u8; above 255 it is
the remainder by `genPoly n` all the same: DESIGN CHOICE, safe, log 16. -/
def rsRemainder (a : Poly) (n : Nat) : Poly := Poly.rem (Poly.normalize (Poly.shift n a)) (genPoly n)

/-- `rs(d, n)` (43_reed_solomon.md R192): the first data byte is the highest-degree coefficient, and e_j is the
coefficient of x^(n-1-j), 0 where the remainder has no such term. The rule's n is in 0..255; above it the same formula is applied:
DESIGN CHOICE, safe, log 16. -/
def rsEcc (d : List Byte) (n : Nat) : List Byte :=
  let r := rsRemainder (Poly.normalize d.reverse) n
  (List.range n).map fun j => r.getD (n - 1 - j) 0

/-- P_GEN (43_reed_solomon.md R191). -/
def execPGen (rd : PReg) (n : Byte) (s : State) : Outcome :=
  finish (s.writePoly rd (genPoly n.toNat))

/-- P_RSENC (43_reed_solomon.md R193). -/
def execPRsenc (rd ra : PReg) (n : Byte) (s : State) : Outcome :=
  match s.readPoly ra with
  | some a => finish (s.writePoly rd (rsRemainder a n.toNat))
  | none => trap .polyLength s

end Sys2Proof.Machine
end

