-- ==== Sys2Proof/Machine/BitVector.lean ====
section
/-! DEFINITION. The bit vector and the block interleaver: BV_CLEAR, BV_APPEND, BV_AT, BV_BYTEAT
(44_bitvector.md R211 to R214) and ECC_INTERLEAVE (R220 to R222). -/

namespace Sys2Proof.Machine

/-- BV_CLEAR (44_bitvector.md R211): the length becomes 0; "The stored bits are not cleared". -/
def execBvClear (s : State) : Outcome := finish { s with bv := { s.bv with len := 0 } }

/-- The low n bits of ARG0, most significant first (44_bitvector.md R212). -/
def appendBits (arg : Word) (n : Nat) : List Bool := (List.range n).map fun k => arg.getLsbD (n - 1 - k)

/-- BV_APPEND (44_bitvector.md R212). -/
def execBvAppend (n : Byte) (s : State) : Outcome :=
  if 32 < n.toNat then trap .badOperand s
  else if Config.bvMax < s.bv.len.toNat + n.toNat then trap .bvOverflow s
  else finish { s with bv := s.bv.storeAt s.bv.len.toNat (appendBits s.arg0 n.toNat) }

/-- BV_AT (44_bitvector.md R213). -/
def execBvAt (s : State) : Outcome :=
  if s.bv.len.toNat ≤ s.arg0.toNat then trap .bvRange s
  else finish (s.writeResult (ofBit (s.bv.bit s.arg0.toNat)))

/-- BV_BYTEAT (44_bitvector.md R214): bits past the length read 0. -/
def execBvByteat (s : State) : Outcome :=
  if s.bv.len.toNat ≤ s.arg0.toNat then trap .bvRange s
  else finish (s.writeResult (s.bv.byteAt s.arg0.toNat))

/-- The shape of one Reed–Solomon block: data codewords and ECC codewords (44_bitvector.md R221). -/
structure BlockShape where
  data : Nat
  ecc : Nat
  deriving DecidableEq, Repr

/-- c_g · t_g codewords of a group. -/
def Group.codewords (g : Group) : Nat := g.count.toNat * g.total.toNat

/-- c_g · d_g data codewords of a group. -/
def Group.dataCodewords (g : Group) : Nat := g.count.toNat * g.data.toNat

/-- A group in use has a data codeword and no more than its total (44_bitvector.md R220). A group with no
blocks is not checked. -/
def Group.shapeOk (g : Group) : Bool :=
  g.count = 0 || (g.data ≠ 0 && g.data.toNat ≤ g.total.toNat)

/-- The blocks of a group. -/
def Group.blocks (g : Group) : List BlockShape :=
  List.replicate g.count.toNat ⟨g.data.toNat, g.total.toNat - g.data.toNat⟩

/-- The split: each block takes the next of the data codewords, in order (44_bitvector.md R221). -/
def splitBlocks : List BlockShape → List Byte → List (List Byte)
  | [], _ => []
  | b :: bs, d => d.take b.data :: splitBlocks bs (d.drop b.data)

/-- Column by column: codeword j of every block in turn, skipping a block once it has no codeword j
(44_bitvector.md R221). -/
def interleave (blocks : List (List Byte)) : List Byte :=
  (List.range ((blocks.map List.length).foldr max 0)).flatMap fun j => blocks.filterMap fun b => b[j]?

/-- The codewords of the bit vector: byte q is bits 8q to 8q + 7 (44_bitvector.md R221). -/
def BitRam.codewords (r : BitRam) : List Byte := (List.range (r.len.toNat / 8)).map fun q => r.byteAt (8 * q)

/-- The byte sequence S: all data codewords interleaved, then all ECC codewords (44_bitvector.md R221). -/
def eccStream (shapes : List BlockShape) (codewords : List Byte) : List Byte :=
  let data := splitBlocks shapes codewords
  let ecc := List.zipWith (fun b d => rsEcc d b.ecc) shapes data
  interleave data ++ interleave ecc

/-- ECC_INTERLEAVE (44_bitvector.md R222): the checks of R220 in order, then the stream of R221 with REMBITS
zero bits after it. -/
def execEccInterleave (s : State) : Outcome :=
  if s.g1.count = 0 ∨ s.g1.shapeOk = false ∨ s.g2.shapeOk = false then trap .badConfig s
  else if s.bv.len.toNat ≠ 8 * (s.g1.dataCodewords + s.g2.dataCodewords) then trap .dataLength s
  else if Config.cwMax < 8 * (s.g1.codewords + s.g2.codewords) + s.rembits.toNat then trap .cwOverflow s
  else
    let stream := eccStream (s.g1.blocks ++ s.g2.blocks) s.bv.codewords
    finish { s with cw := s.cw.storeAt 0 (stream.flatMap bitsOfByte ++ List.replicate s.rembits.toNat false) }

end Sys2Proof.Machine
end

