-- ==== Sys2Proof/Machine/Symbol.lean ====
section
/-! DEFINITION. The symbol builder: the structural patterns (45_symbol.md R243 to R247), the meta information
(R250 to R255), the data placement (R257 to R259), and GRID_CLEAR, GRID_STRUCT, GRID_META, GRID_DATA,
GRID_BUILD. Coordinates are (x, y), x the column and y the row (00_scope.md R13). -/

namespace Sys2Proof.Machine

/-- One `put(x, y, b)` of a drawing (45_symbol.md R242). -/
structure Put where
  x : Nat
  y : Nat
  b : Bool
  deriving DecidableEq, Repr

/-- Performing the puts of a drawing in order: "A later put to the same module overwrites it" (45_symbol.md R242). -/
def Grid.draw (g : Grid) (puts : List Put) : Grid := puts.foldl (fun g p => g.put p.x p.y p.b) g

/-! ## Structural patterns -/

/-- A finder pattern with its top-left corner at (fx, fy) (45_symbol.md R243). -/
def finderPuts (fx fy : Nat) : List Put :=
  (List.range 7).flatMap fun dy => (List.range 7).map fun dx =>
    ⟨fx + dx, fy + dy, dx = 0 || dx = 6 || dy = 0 || dy = 6 || (2 ≤ dx && dx ≤ 4 && 2 ≤ dy && dy ≤ 4)⟩

/-- A finder's separator (45_symbol.md R244): the modules at distance -1 or 7 that lie inside the s × s symbol.
Here i = dx + 1 and j = dy + 1 run from 0 to 8. -/
def separatorPuts (s fx fy : Nat) : List Put :=
  (List.range 9).flatMap fun j => (List.range 9).filterMap fun i =>
    if (i = 0 ∨ i = 8 ∨ j = 0 ∨ j = 8) ∧ 1 ≤ fx + i ∧ fx + i - 1 < s ∧ 1 ≤ fy + j ∧ fy + j - 1 < s then
      some ⟨fx + i - 1, fy + j - 1, false⟩
    else none

/-- An alignment pattern centred at (cx, cy) (45_symbol.md R245): light where max(|dx|, |dy|) = 1. Here i = dx + 2
and j = dy + 2 run from 0 to 4. -/
def alignmentPuts (cx cy : Nat) : List Put :=
  (List.range 5).flatMap fun j => (List.range 5).map fun i =>
    ⟨cx + i - 2, cy + j - 2, !(decide (1 ≤ i ∧ i ≤ 3 ∧ 1 ≤ j ∧ j ≤ 3) && !decide (i = 2 ∧ j = 2))⟩

/-- The centres of version v's alignment patterns: every pair of coordinates but the three that would overlap
the finders (45_symbol.md R245). -/
def alignmentCentres (v : BitVec 6) : List (Nat × Nat) :=
  let a := alignAt v
  let n := a.length
  (List.range n).flatMap fun i => (List.range n).filterMap fun j =>
    if (i = 0 ∧ j = 0) ∨ (i = 0 ∧ j = n - 1) ∨ (i = n - 1 ∧ j = 0) then none
    else some (a.getD i 0, a.getD j 0)

/-- The timing patterns (45_symbol.md R246): k runs over [8, s - 8). -/
def timingPuts (s : Nat) : List Put :=
  (List.range (s - 16)).flatMap fun i =>
    let k := 8 + i
    [⟨k, 6, k % 2 = 0⟩, ⟨6, k, k % 2 = 0⟩]

/-- Draw-structural for version v, in the order of 45_symbol.md R247. -/
def structPuts (v : BitVec 6) : List Put :=
  let s := side v
  (finderPuts 0 0 ++ separatorPuts s 0 0)
    ++ (finderPuts (s - 7) 0 ++ separatorPuts s (s - 7) 0)
    ++ (finderPuts 0 (s - 7) ++ separatorPuts s 0 (s - 7))
    ++ (alignmentCentres v).flatMap (fun c => alignmentPuts c.1 c.2)
    ++ timingPuts s

/-! ## Meta information -/

/-- The two copies of the format info F (45_symbol.md R252). -/
def formatPuts (s f : Nat) : List Put :=
  (List.range 6).map (fun i => ⟨8, i, f.testBit i⟩)
    ++ [⟨8, 7, f.testBit 6⟩, ⟨8, 8, f.testBit 7⟩, ⟨7, 8, f.testBit 8⟩]
    ++ (List.range 6).map (fun j => ⟨14 - (9 + j), 8, f.testBit (9 + j)⟩)
    ++ (List.range 8).map (fun i => ⟨s - 1 - i, 8, f.testBit i⟩)
    ++ (List.range 7).map (fun j => ⟨8, s - 15 + (8 + j), f.testBit (8 + j)⟩)

/-- The dark module (45_symbol.md R255). -/
def darkModulePuts (s : Nat) : List Put := [⟨8, s - 8, true⟩]

/-- The two copies of the version info, from version 7 on (45_symbol.md R254). -/
def versionPuts (v : BitVec 6) : List Put :=
  if v.toNat < 7 then []
  else
    (List.range 18).flatMap fun i =>
      let a := side v - 11 + i % 3
      let b := i / 3
      let bit := (versionInfo v).testBit i
      [⟨a, b, bit⟩, ⟨b, a, bit⟩]

/-- Draw-meta for version v, level and mask m (45_symbol.md R256). -/
def metaPuts (v : BitVec 6) (level : BitVec 2) (m : Nat) : List Put :=
  formatPuts (side v) (formatInfo (levelBits level) m) ++ darkModulePuts (side v) ++ versionPuts v

/-! ## Data placement -/

/-- Mask m is on at (x, y): i = y is the row and j = x the column (45_symbol.md R257). An id above 7, which no command draws with, is
taken as 7: DESIGN CHOICE, safe, log 16. -/
def maskOn (m x y : Nat) : Bool :=
  let i := y
  let j := x
  match m with
  | 0 => (i + j) % 2 = 0
  | 1 => i % 2 = 0
  | 2 => j % 3 = 0
  | 3 => (i + j) % 3 = 0
  | 4 => (i / 2 + j / 3) % 2 = 0
  | 5 => i * j % 2 + i * j % 3 = 0
  | 6 => (i * j % 2 + i * j % 3) % 2 = 0
  | _ => ((i + j) % 2 + i * j % 3) % 2 = 0

/-- The positions of column pair k, in the order they are visited (45_symbol.md R258). -/
def pairPositions (s k : Nat) : List (Nat × Nat) :=
  let r0 := s - 1 - 2 * k
  let r := if r0 ≤ 6 then r0 - 1 else r0
  (List.range s).flatMap fun t =>
    let y := if k % 2 = 0 then s - 1 - t else t
    [(r, y), (r - 1, y)]

/-- The order in which the data modules are visited: the unused ones of all column pairs, over the grid as it is
when placement starts (45_symbol.md R258). Column 6 is in no pair: log 20. -/
def Grid.placementOrder (g : Grid) (s : Nat) : List (Nat × Nat) :=
  ((List.range ((s - 1) / 2)).flatMap (pairPositions s)).filter fun p => !(g.get p.1 p.2).used

/-- The data writes: the n-th position takes bit n of the stream, inverted where the mask is on (45_symbol.md R259). -/
def dataPuts (m : Nat) (order : List (Nat × Nat)) (bits : List Bool) : List Put :=
  List.zipWith (fun p b => ⟨p.1, p.2, b ^^ maskOn m p.1 p.2⟩) order bits

/-! ## The drawings -/

/-- The effect of GRID_STRUCT on the grid (45_symbol.md R248). -/
def structGrid (v : BitVec 6) : Grid := Grid.blank.draw (structPuts v)

/-- The effect of GRID_META on the grid (45_symbol.md R256). -/
def Grid.drawMeta (g : Grid) (v : BitVec 6) (level : BitVec 2) (m : Nat) : Grid := g.draw (metaPuts v level m)

/-- The effect of GRID_DATA on the grid (45_symbol.md R261). -/
def Grid.drawData (g : Grid) (s m : Nat) (bits : List Bool) : Grid :=
  g.draw (dataPuts m (g.placementOrder s) bits)

/-- The grid of GRID_BUILD m (45_symbol.md R263): a function of VERSION, LEVEL, m and the stream (R264). -/
def builtGrid (v : BitVec 6) (level : BitVec 2) (bits : List Bool) (m : Nat) : Grid :=
  ((structGrid v).drawMeta v level m).drawData (side v) m bits

/-! ## The commands -/

/-- GRID_CLEAR (45_symbol.md R241). -/
def execGridClear (s : State) : Outcome :=
  if versionOk s.version then finish { s with gridVer := s.version, grid := .blank }
  else trap .badConfig s

/-- GRID_STRUCT (45_symbol.md R248). -/
def execGridStruct (s : State) : Outcome :=
  if versionOk s.version then finish { s with gridVer := s.version, grid := structGrid s.version }
  else trap .badConfig s

/-- GRID_META (45_symbol.md R256): geometry from GRID_VER. -/
def execGridMeta (m : Byte) (s : State) : Outcome :=
  if maskOk m = false then trap .badMask s
  else if s.gridVer = 0 then trap .noGrid s
  else finish { s with grid := s.grid.drawMeta s.gridVer s.level m.toNat }

/-- GRID_DATA (45_symbol.md R261). -/
def execGridData (m : Byte) (s : State) : Outcome :=
  if maskOk m = false then trap .badMask s
  else if s.gridVer = 0 then trap .noGrid s
  else if s.cw.len.toNat ≠ s.emptyCount then trap .capacity s
  else finish { s with grid := s.grid.drawData (side s.gridVer) m.toNat s.cw.bits }

/-- GRID_BUILD (45_symbol.md R263): all checks before the grid is cleared. -/
def execGridBuild (m : Byte) (s : State) : Outcome :=
  if maskOk m = false then trap .badMask s
  else if versionOk s.version = false then trap .badConfig s
  else if s.cw.len.toNat ≠ dataModules s.version then trap .capacity s
  else finish { s with gridVer := s.version, grid := builtGrid s.version s.level s.cw.bits m.toNat }

end Sys2Proof.Machine
end

