-- ==== Sys2Proof/Machine/Mask.lean ====
section
/-! DEFINITION. The mask evaluator: the four penalty rules (46_mask.md R280 to R284), GRID_SCORE (R289) and
MASK_SEARCH (R291). -/

namespace Sys2Proof.Machine

/-! ## Lines -/

/-- The modules of row y, left to right (46_mask.md R280). -/
def Grid.rowLine (g : Grid) (s y : Nat) : List Bool := (List.range s).map fun x => (g.get x y).val

/-- The modules of column x, top to bottom (46_mask.md R280). -/
def Grid.colLine (g : Grid) (s x : Nat) : List Bool := (List.range s).map fun y => (g.get x y).val

/-- The 2s lines: s rows, then s columns (46_mask.md R280). -/
def Grid.lines (g : Grid) (s : Nat) : List (List Bool) :=
  (List.range s).map (g.rowLine s) ++ (List.range s).map (g.colLine s)

/-! ## Rule 1 -/

/-- The lengths of the maximal runs of a line that goes on after n modules of value c (46_mask.md R280). -/
def runsAfter : Bool → Nat → List Bool → List Nat
  | _, n, [] => [n]
  | c, n, b :: bs => if b = c then runsAfter c (n + 1) bs else n :: runsAfter b 1 bs

/-- The lengths of the maximal runs of equal values of a line (46_mask.md R280). -/
def runLengths : List Bool → List Nat
  | [] => []
  | b :: bs => runsAfter b 1 bs

/-- What a run of length l adds: `N1 + (L - 5)` from 5 on, N1 = 3 (46_mask.md R280). -/
def runPenalty (l : Nat) : Nat := if 5 ≤ l then 3 + (l - 5) else 0

/-- Rule 1 on one line (46_mask.md R280). -/
def linePenalty1 (line : List Bool) : Nat := ((runLengths line).map runPenalty).sum

/-- p1 (46_mask.md R280). -/
def Grid.penalty1 (g : Grid) (s : Nat) : Nat := ((g.lines s).map linePenalty1).sum

/-! ## Rule 2 -/

/-- The 2 × 2 window at (x, y) has one value (46_mask.md R281). -/
def Grid.uniform2x2 (g : Grid) (x y : Nat) : Bool :=
  (g.get x y).val == (g.get (x + 1) y).val && (g.get x y).val == (g.get x (y + 1)).val
    && (g.get x y).val == (g.get (x + 1) (y + 1)).val

/-- p2 (46_mask.md R281). -/
def Grid.penalty2 (g : Grid) (s : Nat) : Nat :=
  3 * ((List.range (s - 1)).map fun y => (List.range (s - 1)).countP fun x => g.uniform2x2 x y).sum

/-! ## Rule 3 -/

/-- The matches of the 11-bit register scan over the rest of a line, from register value buf (46_mask.md R282).
The line's last module is the one with nothing after it. -/
def finderMatchesFrom (buf : BitVec 11) : List Bool → Nat
  | [] => 0
  | b :: bs =>
    let buf := (buf <<< 1) ||| (BitVec.ofBool b).setWidth 11
    if buf = 0x05D ∨ buf = 0x5D0 ∨ (bs = [] ∧ buf &&& 0x7F = 0x5D) then 1 + finderMatchesFrom 0x0FF bs
    else finderMatchesFrom buf bs

/-- The matches of a line (46_mask.md R282). -/
def finderMatches (line : List Bool) : Nat := finderMatchesFrom 0 line

/-- p3 (46_mask.md R282). -/
def Grid.penalty3 (g : Grid) (s : Nat) : Nat := 40 * ((g.lines s).map finderMatches).sum

/-! ## Rule 4 -/

/-- The dark modules of the symbol (46_mask.md R283). -/
def Grid.darkCount (g : Grid) (s : Nat) : Nat :=
  ((List.range s).map fun y => (List.range s).countP fun x => (g.get x y).val).sum

/-- p4 for d dark modules of t (46_mask.md R283): 10 for each whole 5 % step, with |2D - T| in natural numbers.
Of no modules, which no symbol has, it is 0: DESIGN CHOICE, safe, log 16. -/
def darkPenalty (d t : Nat) : Nat := 10 * (10 * ((2 * d - t) + (t - 2 * d)) / t)

/-- p4 (46_mask.md R283). -/
def Grid.penalty4 (g : Grid) (s : Nat) : Nat := darkPenalty (g.darkCount s) (s * s)

/-! ## Scores -/

/-- The score of a grid (46_mask.md R284, R289). Every value fits its register (R285, log 18). -/
def Grid.scores (g : Grid) (s : Nat) : Scores :=
  let p1 := g.penalty1 s
  let p2 := g.penalty2 s
  let p3 := g.penalty3 s
  let p4 := g.penalty4 s
  ⟨.ofNat 32 p1, .ofNat 32 p2, .ofNat 32 p3, .ofNat 32 p4, .ofNat 32 (p1 + p2 + p3 + p4)⟩

/-- GRID_SCORE (46_mask.md R289): m names a slot only. -/
def execGridScore (m : Byte) (s : State) : Outcome :=
  if h : m.toNat < 8 then
    if s.gridVer = 0 then trap .noGrid s
    else finish { s with score := s.score.set m.toNat (s.grid.scores (side s.gridVer)) }
  else trap .badMask s

/-- The least of the masks 0..n whose total is the minimum over 0..n, for totals t (46_mask.md R291): a later mask
replaces it only with a smaller total. -/
def bestUpTo (t : Nat → Word) : Nat → Nat
  | 0 => 0
  | n + 1 => if t (n + 1) < t (bestUpTo t n) then n + 1 else bestUpTo t n

/-- MASK_SEARCH (46_mask.md R291): all 8 masks built and scored, the best kept. -/
def execMaskSearch (s : State) : Outcome :=
  if versionOk s.version = false then trap .badConfig s
  else if s.cw.len.toNat ≠ dataModules s.version then trap .capacity s
  else
    let bits := s.cw.bits
    let score : Vector Scores 8 :=
      tabulate 8 fun m => (builtGrid s.version s.level bits m).scores (side s.version)
    let b := bestUpTo (fun m => (score.toList.getD m .zero).total) 7
    finish { s with
      score := score
      grid := builtGrid s.version s.level bits b
      gridVer := s.version
      bestValid := true
      bestMask := .ofNat 3 b
      bestPen := (score.toList.getD b .zero).total }

end Sys2Proof.Machine
end

