-- ==== Sys2Proof/Machine/Bus.lean ====
section
/-! DEFINITION. The host's aperture: the register map (10_state.md R22), the windows (20_memory.md R70 to R81), and
what a host read and a host write do (40_command.md R131, R136, 20_memory.md R90). -/

namespace Sys2Proof.Machine

/-- What an offset of the aperture names (10_state.md R22, 20_memory.md R70). -/
inductive Target where
  | id | ctrl | status | cmd | arg0 | result | errinfo
  | plen (p : PReg)
  | bvLen | cwLen | version | level | g1 | g2 | rembits | gridVer | best | bestPen | empty | size
  | score (m : Fin 8) (r : Nat)
  | expRom (i : Nat)
  | logRom (i : Nat)
  | pram (p : PReg) (i : Fin 256)
  | bvWindow (w : Nat)
  | cwWindow (w : Nat)
  | grid (x y : Nat)
  | bitmap (qx qy : Nat)
  | unmapped
  deriving DecidableEq, Repr

/-- The register at an offset below 0x300 (10_state.md R22); the others there are reserved. -/
def Target.ofRegister (o : Nat) : Target :=
  match o with
  | 0x000 => .id
  | 0x004 => .ctrl
  | 0x008 => .status
  | 0x00C => .cmd
  | 0x010 => .arg0
  | 0x014 => .result
  | 0x018 => .errinfo
  | 0x020 => .plen 0
  | 0x024 => .plen 1
  | 0x028 => .plen 2
  | 0x02C => .plen 3
  | 0x030 => .bvLen
  | 0x034 => .cwLen
  | 0x040 => .version
  | 0x044 => .level
  | 0x048 => .g1
  | 0x04C => .g2
  | 0x050 => .rembits
  | 0x054 => .gridVer
  | 0x058 => .best
  | 0x05C => .bestPen
  | 0x060 => .empty
  | 0x064 => .size
  | _ =>
    if h : 0x200 ≤ o ∧ o < 0x300 ∧ o / 4 % 8 < 5 ∧ o % 4 = 0 then
      .score ⟨(o - 0x200) / 0x20, by omega⟩ (o / 4 % 8)
    else .unmapped

/-- What a word-aligned offset names (20_memory.md R70). -/
def Target.ofOffset (off : BitVec 20) : Target :=
  let o := off.toNat
  if o < 0x00300 then .ofRegister o
  else if o < 0x01000 then .unmapped
  else if o < 0x01400 then .expRom ((o - 0x01000) / 4)
  else if o < 0x01800 then .logRom ((o - 0x01400) / 4)
  else if o < 0x02000 then .unmapped
  else if h : o < 0x03000 then
    if 0x02000 ≤ o then .pram ⟨(o - 0x02000) / 0x400, by omega⟩ ⟨o / 4 % 256, by omega⟩ else .unmapped
  else if o < 0x04000 then .unmapped
  else if o < 0x05000 then .bvWindow ((o - 0x04000) / 4)
  else if o < 0x06000 then .cwWindow ((o - 0x05000) / 4)
  else if o < 0x40000 then .unmapped
  else if o < 0x80000 then .grid (o / 4 % 256) ((o - 0x40000) / 4 / 256)
  else if o < 0xC0000 then .bitmap (o / 4 % 256) ((o - 0x80000) / 4 / 256)
  else .unmapped

/-- The group register as read (10_state.md R22). -/
def Group.toWord (g : Group) : Word := 0#8 ++ g.data ++ g.total ++ g.count

/-- The group register as written; bits [31:24] are discarded (10_state.md R22, R34). -/
def Group.ofWord (v : Word) : Group := ⟨v.extractLsb' 0 8, v.extractLsb' 8 8, v.extractLsb' 16 8⟩

/-- Word r of a score slot; words 5 to 7 are reserved (10_state.md R40). -/
def Scores.word (c : Scores) : Nat → Word
  | 0 => c.p1
  | 1 => c.p2
  | 2 => c.p3
  | 3 => c.p4
  | 4 => c.total
  | _ => 0

/-- (x, y) is a module of the symbol held: GRID_VER ≠ 0 and x, y < s (20_memory.md R78). -/
def State.inSymbol (s : State) (x y : Nat) : Bool :=
  s.gridVer ≠ 0 && x < side s.gridVer && y < side s.gridVer

/-- SIZE: s in bits [7:0], s + 8 in bits [15:8] (10_state.md R39). -/
def State.sizeWord (s : State) : Word :=
  if s.gridVer = 0 then 0
  else 0#16 ++ BitVec.ofNat 8 (side s.gridVer + 2 * Config.quietZone) ++ BitVec.ofNat 8 (side s.gridVer)

/-- A word of the GRID window: `{30'b0, used, val}` (20_memory.md R78). -/
def State.gridWord (s : State) (x y : Nat) : Word :=
  if s.inSymbol x y then ofBit (s.grid.get x y).val ||| (ofBit (s.grid.get x y).used <<< 1) else 0

/-- A word of the BITMAP window: the module inside the quiet zone, light elsewhere (20_memory.md R79). -/
def State.bitmapWord (s : State) (qx qy : Nat) : Word :=
  if Config.quietZone ≤ qx ∧ Config.quietZone ≤ qy ∧ s.inSymbol (qx - Config.quietZone) (qy - Config.quietZone) then
    ofBit (s.grid.get (qx - Config.quietZone) (qy - Config.quietZone)).val
  else 0

/-- The value a read returns while BUSY = 0 (10_state.md R22, R41, 20_memory.md R74 to R81). -/
def State.readTarget (s : State) : Target → Word
  | .id => Config.idWord
  | .ctrl => s.ctrlWord
  | .status => s.statusWord
  | .cmd => s.lastcmd
  | .arg0 => s.arg0
  | .result => s.result
  | .errinfo => s.errinfo
  | .plen p => zext s.polys[p].len
  | .bvLen => zext s.bv.len
  | .cwLen => zext s.cw.len
  | .version => zext s.version
  | .level => zext s.level
  | .g1 => s.g1.toWord
  | .g2 => s.g2.toWord
  | .rembits => zext s.rembits
  | .gridVer => zext s.gridVer
  | .best => s.bestWord
  | .bestPen => s.bestPen
  | .empty => .ofNat 32 s.emptyCount
  | .size => s.sizeWord
  | .score m r => s.score[m].word r
  | .expRom i => zext (expAt i)
  | .logRom i => zext (logTable.getD i 0)
  | .pram p i => zext s.polys[p].c[i]
  | .bvWindow w => s.bv.window w
  | .cwWindow w => s.cw.window w
  | .grid x y => s.gridWord x y
  | .bitmap qx qy => s.bitmapWord qx qy
  | .unmapped => 0

/-- The registers whose reads stay defined while BUSY = 1 (20_memory.md R90). -/
def Target.definedWhileBusy : Target → Bool
  | .id | .ctrl | .status | .cmd | .errinfo => true
  | _ => false

/-- A host read (20_memory.md R82, R90): the value goes to the host and nothing of the CORE changes. While BUSY = 1
a read of another offset returns a free draw. -/
def State.hostRead (s : State) (off : BitVec 20) : State :=
  let t := Target.ofOffset off
  if s.busy && !t.definedWhileBusy then { s with rdata := Config.freeWord s.draws, draws := s.draws + 1 }
  else { s with rdata := s.readTarget t }

/-- A CTRL write (10_state.md R23): SRESET resets and ignores the other bits (70_reset_and_hazards.md R341). -/
def State.writeCtrl (s : State) (v : Word) : State :=
  if v.getLsbD 31 then s.resetCore else { s with irqEn := v.getLsbD 0 }

/-- A write to one coefficient: PLEN does not change (20_memory.md R76). -/
def State.writeCoeff (s : State) (p : PReg) (i : Fin 256) (v : Word) : State :=
  { s with polys := s.polys.set p { s.polys[p] with c := s.polys[p].c.set i (v.extractLsb' 0 8) } }

/-- A write to PLENp: bits [8:0] (10_state.md R22, R29). -/
def State.writePlen (s : State) (p : PReg) (v : Word) : State :=
  { s with polys := s.polys.set p { s.polys[p] with len := v.extractLsb' 0 9 } }

/-- A write to the GRID window: d[0] the value, d[1] the used flag, ignored outside the symbol (20_memory.md R78). -/
def State.writeGrid (s : State) (x y : Nat) (v : Word) : State :=
  if s.inSymbol x y then { s with grid := s.grid.setModule x y ⟨v.getLsbD 0, v.getLsbD 1⟩ } else s

/-- A host write while BUSY = 0 (10_state.md R22, R41, 20_memory.md R74 to R82): a read-only, reserved or unmapped
offset ignores it. -/
def State.writeTarget (s : State) (v : Word) : Target → State
  | .ctrl => s.writeCtrl v
  | .status => s.writeStatus v
  | .cmd => s.offerCommand v
  | .arg0 => { s with arg0 := v }
  | .plen p => s.writePlen p v
  | .version => { s with version := v.extractLsb' 0 6 }
  | .level => { s with level := v.extractLsb' 0 2 }
  | .g1 => { s with g1 := .ofWord v }
  | .g2 => { s with g2 := .ofWord v }
  | .rembits => { s with rembits := v.extractLsb' 0 3 }
  | .pram p i => s.writeCoeff p i v
  | .grid x y => s.writeGrid x y v
  | .id | .result | .errinfo | .bvLen | .cwLen | .gridVer | .best | .bestPen | .empty | .size => s
  | .score _ _ | .expRom _ | .logRom _ | .bvWindow _ | .cwWindow _ | .bitmap _ _ | .unmapped => s

/-- The registers a host write reaches while BUSY = 1 (40_command.md R136). -/
def Target.writableWhileBusy : Target → Bool
  | .ctrl | .status => true
  | _ => false

/-- A host write (40_command.md R131, R136): while BUSY = 1 a write to anything but CTRL and STATUS is refused by
the CORE and records the BUSY error. -/
def State.hostWrite (s : State) (off : BitVec 20) (v : Word) : State :=
  let t := Target.ofOffset off
  if s.busy && !t.writableWhileBusy then s.refuseWrite off else s.writeTarget v t

/-- One bus access: whole aligned 32-bit words only; any other access is refused (20_memory.md R72, log 7). -/
def busAccess (a : Access) (s : State) : Outcome :=
  if a.width ≠ .bits32 ∨ a.enables ≠ 0xF then .refused .narrowAccess
  else if a.off.toNat % 4 ≠ 0 then .refused .misalignedAccess
  else
    match a.dir with
    | .read => .next (s.hostRead a.off)
    | .write v => .next (s.hostWrite a.off v)

end Sys2Proof.Machine
end

