-- ==== Sys2Proof/Machine/Command.lean ====
section
/-! DEFINITION. The command without a unit of its own: NOP (40_command.md R138). -/

namespace Sys2Proof.Machine

/-- NOP: only the bookkeeping of R133 (40_command.md R138). -/
def execNop (s : State) : Outcome := finish s

end Sys2Proof.Machine
end

