-- ==== Sys2Proof/Machine/Dispatch.lean ====
section
/-! DEFINITION. The command in execution, one arm per constructor (30_encoding.md R104, 40_command.md R133). -/

namespace Sys2Proof.Machine

def exec (i : Instr) (s : State) : Host.Outcome State Fault Refusal :=
  match i with
  | .nop => Sys2Proof.Machine.execNop s
  | .gfMul a b => Sys2Proof.Machine.execGfMul a b s
  | .gfDiv a b => Sys2Proof.Machine.execGfDiv a b s
  | .gfInv a => Sys2Proof.Machine.execGfInv a s
  | .pAdd rd ra rb => Sys2Proof.Machine.execPAdd rd ra rb s
  | .pMul rd ra rb => Sys2Proof.Machine.execPMul rd ra rb s
  | .pRem rd ra rb => Sys2Proof.Machine.execPRem rd ra rb s
  | .pMono rd c k => Sys2Proof.Machine.execPMono rd c k s
  | .pGen rd n => Sys2Proof.Machine.execPGen rd n s
  | .pRsenc rd ra n => Sys2Proof.Machine.execPRsenc rd ra n s
  | .bvClear => Sys2Proof.Machine.execBvClear s
  | .bvAppend n => Sys2Proof.Machine.execBvAppend n s
  | .bvAt => Sys2Proof.Machine.execBvAt s
  | .bvByteat => Sys2Proof.Machine.execBvByteat s
  | .eccInterleave => Sys2Proof.Machine.execEccInterleave s
  | .gridClear => Sys2Proof.Machine.execGridClear s
  | .gridStruct => Sys2Proof.Machine.execGridStruct s
  | .gridMeta m => Sys2Proof.Machine.execGridMeta m s
  | .gridData m => Sys2Proof.Machine.execGridData m s
  | .gridBuild m => Sys2Proof.Machine.execGridBuild m s
  | .gridScore m => Sys2Proof.Machine.execGridScore m s
  | .maskSearch => Sys2Proof.Machine.execMaskSearch s

end Sys2Proof.Machine
end

