-- ==== Sys2Proof/Machine/Sequencer.lean ====
section
/-! DEFINITION. The sequencer's step (40_command.md R132, R133) and the turn the machine takes next
(00_scope.md R15). -/

namespace Sys2Proof.Machine

/-- The sequencer's step on the pending word w: decode, then run (40_command.md R133). A word that is no command
raises ILLEGAL_CMD (30_encoding.md R105). -/
def runCommand (w : Word) (s : State) : Outcome :=
  match decode w with
  | .ok i => exec i s
  | .error _ => trap .illegalCmd s

/-- The sequencer's turn: it has a step exactly when a command is pending (40_command.md R132). -/
def sequencerTurn (s : State) : Outcome :=
  match s.pending with
  | some w => runCommand w s
  | none => .next s

/-- One turn: a bus access, a hardware reset (70_reset_and_hazards.md R340), or the sequencer's. -/
def takeTurn (t : Turn) (s : State) : Outcome :=
  match t with
  | .access a => busAccess a s
  | .hardReset => .next s.resetCore
  | .sequencer => sequencerTurn s

end Sys2Proof.Machine
end

