-- ==== Sys2Proof/Machine/Step.lean ====
section
/-! DEFINITION. One step of the CORE: the next turn of the list, and the sequencer's once the list is used up. -/

namespace Sys2Proof.Machine

/-- One step. The order of host steps and the sequencer's step is the list `turns` (40_command.md R132, log 1).
When no turn is left, the sequencer executes a command still pending (70_reset_and_hazards.md R356, log 10), and
with none pending the CORE is idle and keeps its state (60_exceptions.md R335). -/
def step (s : State) : Host.Outcome State Fault Refusal :=
  match s.turns with
  | [] => sequencerTurn s
  | t :: ts => takeTurn t { s with turns := ts }

/-- `s` with the command word `w` accepted (40_command.md R131) and the sequencer's turn next, so that the next
step executes it: the CORE fetches nothing, and a command reaches it as PENDING (20_memory.md R87, log 1). -/
def State.withFetchWord (s : State) (nbits w : Nat) : State :=
  let word : Word := .ofNat 32 (w % 2 ^ nbits)
  { s with pending := some word, lastcmd := word, done := false, turns := .sequencer :: s.turns }

end Sys2Proof.Machine
end

