-- ==== Sys2Proof/Safety.lean ====
section
/-! DEFINITION. What claims about runs are stated in: the invariant of the CORE's state, and the accesses the bus
contract allows. -/

namespace Sys2Proof.Machine

/-- A bit RAM is well formed: the byte memory is in canonical form, has no byte past the last of 4096, and the
length is at most 32768 (10_state.md R30, R31, R43, R44). -/
structure BitRam.Ok (r : BitRam) : Prop where
  canonical : Memory.wf r.ram
  inRange : ∀ c ∈ r.ram, c.1 < 4096
  lenLe : r.len.toNat ≤ 32768

/-- Nothing lies outside the symbol that the grid holds: every module with x ≥ s or y ≥ s is blank, and the whole
array is blank while GRID_VER = 0 (10_state.md R45, 20_memory.md R78). -/
def State.OutsideBlank (s : State) : Prop :=
  ∀ x y, s.inSymbol x y = false → s.grid.get x y = .blank

/-- The sum register of a score slot is the sum of the four penalties (10_state.md R40). -/
def Scores.SumOk (c : Scores) : Prop := c.total = c.p1 + c.p2 + c.p3 + c.p4

/-- The invariant of the CORE's state, kept by every step. -/
structure State.Inv (s : State) : Prop where
  /-- BV's memory and length (R30, R43). -/
  bvOk : s.bv.Ok
  /-- CW's memory and length (R31, R44). -/
  cwOk : s.cw.Ok
  /-- GRID_VER is 0 or a version (R36). -/
  gridVerLe : s.gridVer.toNat ≤ 40
  /-- ERRCODE is 0x00 while ERR = 0 (R24). -/
  noErr : s.err = false → s.errcode = 0
  /-- While ERR = 1 the code is one of R310's, 0x01 to 0x10. -/
  errCode : s.err = true → 1 ≤ s.errcode.toNat ∧ s.errcode.toNat ≤ 0x10
  /-- While a command is pending, LASTCMD is its word and DONE is 0 (40_command.md R131). -/
  pendingOk : ∀ w, s.pending = some w → s.lastcmd = w ∧ s.done = false
  /-- BEST and BEST_PEN are 0 until a MASK_SEARCH succeeds (R37). -/
  bestOk : s.bestValid = false → s.bestMask = 0 ∧ s.bestPen = 0
  /-- Every score slot's sum (R40). -/
  scoreOk : ∀ m : Fin 8, s.score[m].SumOk
  /-- Nothing outside the symbol (R45). -/
  outsideBlank : s.OutsideBlank

/-- A bus access inside the bus contract: a whole aligned 32-bit word (20_memory.md R72). -/
def Access.wellFormed (a : Access) : Bool :=
  a.width = .bits32 && a.enables = 0xF && a.off.toNat % 4 = 0

/-- A turn that is no access outside the bus contract. -/
def Turn.wellFormed : Turn → Bool
  | .access a => a.wellFormed
  | .hardReset => true
  | .sequencer => true

end Sys2Proof.Machine
end

