-- ==== Sys2Proof/Certificates/Slice0/Obligations.lean ====
section
/-! DEFINITION. The statements for the provers, each formalising rules of spec/, and the few notions they are
stated in (namespace Sys2Proof.Spec). -/

namespace Sys2Proof.Spec

open Sys2Proof.Machine

/-! ## Notions the statements use -/

/-- The rows of opcode_table.json: match and mask of each of the 22 commands. -/
def opcodeRows : List (Word × Word) :=
  [(0x00000000, 0xFFFFFFFF), (0x00000010, 0x0000FFFF), (0x00000011, 0x0000FFFF), (0x00000012, 0xFF00FFFF)] ++
  [(0x00000020, 0xFFFFC0FF), (0x00000021, 0xFFFFC0FF), (0x00000022, 0xFFFFC0FF), (0x00000023, 0x0000FCFF)] ++
  [(0x00000028, 0xFF00FCFF), (0x00000029, 0xFF00F0FF)] ++
  [(0x00000030, 0xFFFFFFFF), (0x00000031, 0xFF00FFFF), (0x00000032, 0xFFFFFFFF), (0x00000033, 0xFFFFFFFF)] ++
  [(0x00000038, 0xFFFFFFFF), (0x00000040, 0xFFFFFFFF), (0x00000041, 0xFFFFFFFF), (0x00000042, 0xFF00FFFF)] ++
  [(0x00000043, 0xFF00FFFF), (0x00000044, 0xFF00FFFF), (0x00000048, 0xFF00FFFF), (0x00000049, 0xFFFFFFFF)]

/-- The sequencer's step comes next in s, and leaves the turns ts (40_command.md R132), in the
turn list of log 1, or after its end (log 10). -/
def SequencerNext (s : State) (ts : List Turn) : Prop :=
  (s.turns = [] ∧ ts = []) ∨ s.turns = .sequencer :: ts

/-- A whole aligned 32-bit access (20_memory.md R72). -/
def wordAccess (off : BitVec 20) (d : Direction) : Access := ⟨off, .bits32, 0xF, d⟩

/-- The host's read of offset off comes next in s (the turn list: log 1). -/
def ReadNext (s : State) (off : BitVec 20) (ts : List Turn) : Prop :=
  s.turns = .access (wordAccess off .read) :: ts ∧ off.toNat % 4 = 0

/-- The host's write of v to offset off comes next in s (the turn list: log 1). -/
def WriteNext (s : State) (off : BitVec 20) (v : Word) (ts : List Turn) : Prop :=
  s.turns = .access (wordAccess off (.write v)) :: ts ∧ off.toNat % 4 = 0

/-- The state after a command with word w faulted with code e (60_exceptions.md R311): an error already recorded
is kept. -/
def faulted (s : State) (w : Word) (e : BitVec 8) : State :=
  { s with
    pending := none
    err := true
    errcode := if s.err then s.errcode else e
    errinfo := if s.err then s.errinfo else w }

/-- The sequencer's step of the pending word w raises ILLEGAL_CMD, whatever the state (30_encoding.md R105, 60_exceptions.md R311). -/
def RaisesIllegal (w : Word) : Prop :=
  ∀ (s : State) (ts : List Turn), s.pending = some w → SequencerNext s ts → step s = .next (faulted { s with turns := ts } w 0x01)

/-- The codes a command can raise at its step beside ILLEGAL_CMD (60_exceptions.md R312). -/
def faultCodes : Instr → List (BitVec 8)
  | .nop | .gfMul _ _ | .pMono _ _ _ | .pGen _ _ | .bvClear => []
  | .gfDiv _ _ => [0x03]
  | .gfInv _ => [0x04]
  | .pAdd _ _ _ | .pRsenc _ _ _ => [0x07]
  | .pMul _ _ _ => [0x07, 0x06]
  | .pRem _ _ _ => [0x07, 0x05]
  | .bvAppend _ => [0x0A, 0x08]
  | .bvAt | .bvByteat => [0x09]
  | .eccInterleave => [0x0B, 0x0C, 0x0D]
  | .gridClear | .gridStruct => [0x0B]
  | .gridMeta _ | .gridScore _ => [0x0E, 0x10]
  | .gridData _ => [0x0E, 0x10, 0x0F]
  | .gridBuild _ => [0x0E, 0x0B, 0x0F]
  | .maskSearch => [0x0B, 0x0F]

/-- The next step of s is the sequencer's step of command i. -/
def Executes (s : State) (i : Instr) : Prop :=
  ∃ w ts, s.pending = some w ∧ decode w = .ok i ∧ SequencerNext s ts

/-- The next step of s is a reset: the reset input, or a CTRL write with bit 31 = 1 (70_reset_and_hazards.md R340, R341). -/
def Resets (s : State) : Prop :=
  (∃ ts, s.turns = .hardReset :: ts) ∨ ∃ v ts, WriteNext s 0x004 v ts ∧ v.getLsbD 31 = true

/-- A polynomial register number as a field (30_encoding.md R101). -/
def regField (p : PReg) : Word := BitVec.ofNat 32 p.val

/-- PLENp as a number. -/
def plen (s : State) (p : PReg) : Nat := s.polys[p].len.toNat

/-- Coefficient k of the value of polynomial register p: 0 at PLENp and above (10_state.md R42). -/
def coeff (s : State) (p : PReg) (k : Nat) : Byte :=
  if k < plen s p then s.polys[p].c.toList.getD k 0 else 0

/-- The register r holds the normalized polynomial with coefficients f: all 256 stored coefficients are those of f,
f is 0 from PLEN on, and its coefficient below PLEN is not 0 (42_gfpoly.md R171). -/
def Holds (r : PolyReg) (f : Nat → Byte) : Prop :=
  (∀ k (h : k < 256), r.c[k] = f k) ∧ r.len.toNat ≤ 256 ∧ (∀ k, r.len.toNat ≤ k → f k = 0)
    ∧ (r.len.toNat ≠ 0 → f (r.len.toNat - 1) ≠ 0)

/-- The exclusive or of f 0, ..., f (n - 1). -/
def xorSum : Nat → (Nat → Byte) → Byte
  | 0, _ => 0
  | n + 1, f => xorSum n f ^^^ f n

/-- Coefficient k of a product: the exclusive or over all i + j = k (42_gfpoly.md R174). -/
def conv (a b : Nat → Byte) (k : Nat) : Byte := xorSum (k + 1) fun i => gfmul (a i) (b (k - i))

/-- Coefficient k of g_n (43_reed_solomon.md R190): g_0 = 1, g_(i+1) = g_i · (x + EXP[i]). -/
def genCoeff : Nat → Nat → Byte
  | 0, k => if k = 0 then 1 else 0
  | n + 1, k => gfmul (genCoeff n k) (expAt n) ^^^ (if k = 0 then 0 else genCoeff n (k - 1))

/-- The value at x of the polynomial whose coefficients, highest degree first, are the given bytes (43_reed_solomon.md R192). -/
def evalBytes (bytes : List Byte) (x : Byte) : Byte := bytes.foldl (fun acc b => gfmul acc x ^^^ b) 0

/-- The place of codeword j of block b in a column-wise interleaving of blocks with the given lengths: the codewords of the columns
before j, then those of column j in the blocks before b (44_bitvector.md R221). -/
def columnPlace (lens : List Nat) (j b : Nat) : Nat :=
  ((List.range j).map fun j' => lens.countP fun l => decide (j' < l)).sum + (lens.take b).countP fun l => decide (j < l)

/-- The block structure is illegal (44_bitvector.md R220): no block in group 1, or a group in use with no data codeword or with more
data codewords than codewords. -/
def BadBlocks (s : State) : Prop :=
  s.g1.count = 0 ∨ (s.g1.data = 0 ∨ s.g1.total.toNat < s.g1.data.toNat)
    ∨ (s.g2.count ≠ 0 ∧ (s.g2.data = 0 ∨ s.g2.total.toNat < s.g2.data.toNat))

/-- c_1·d_1 + c_2·d_2 (44_bitvector.md R220). -/
def dataCodewords (s : State) : Nat := s.g1.count.toNat * s.g1.data.toNat + s.g2.count.toNat * s.g2.data.toNat

/-- c_1·t_1 + c_2·t_2 (44_bitvector.md R220). -/
def allCodewords (s : State) : Nat := s.g1.count.toNat * s.g1.total.toNat + s.g2.count.toNat * s.g2.total.toNat

/-- SIDE(v) (00_scope.md R6). -/
def sideOf (v : BitVec 6) : Nat := 21 + 4 * (v.toNat - 1)

/-- The offsets of the register map outside the score slots (10_state.md R22). -/
def registerOffsets : List (BitVec 20) :=
  [0x000, 0x004, 0x008, 0x00C, 0x010, 0x014, 0x018, 0x020, 0x024, 0x028, 0x02C, 0x030, 0x034] ++
  [0x040, 0x044, 0x048, 0x04C, 0x050, 0x054, 0x058, 0x05C, 0x060, 0x064]

/-- The number of modules (x, y) of the s × s symbol that are unused. -/
def unusedIn (g : Grid) (s : Nat) : Nat := ((Finset.range s ×ˢ Finset.range s).filter fun p => (g.get p.1 p.2).used = false).card

/-- EMPTY (10_state.md R38): 0 while there is no grid, else the unused modules of its symbol. -/
def unusedModules (s : State) : Nat := if s.gridVer = 0 then 0 else unusedIn s.grid (sideOf s.gridVer)

/-- v is one of the versions 1 to 40. -/
def IsVersion (v : BitVec 6) : Prop := 1 ≤ v.toNat ∧ v.toNat ≤ 40

/-- (fx, fy) is the top-left corner of one of the three finders (45_symbol.md R243). -/
def FinderCorner (s fx fy : Nat) : Prop :=
  (fx = 0 ∧ fy = 0) ∨ (fx = s - 7 ∧ fy = 0) ∨ (fx = 0 ∧ fy = s - 7)

/-- The value of a finder's module at (dx, dy) from its corner (45_symbol.md R243). -/
def finderValue (dx dy : Nat) : Bool :=
  decide (dx = 0 ∨ dx = 6 ∨ dy = 0 ∨ dy = 6 ∨ (2 ≤ dx ∧ dx ≤ 4 ∧ 2 ≤ dy ∧ dy ≤ 4))

/-- (x, y) belongs to the separator of a finder: one step outside its 7 × 7 square, inside the symbol (45_symbol.md R244). -/
def SeparatorModule (s x y : Nat) : Prop :=
  x < s ∧ y < s ∧ ∃ fx fy, FinderCorner s fx fy ∧ fx ≤ x + 1 ∧ x ≤ fx + 7 ∧ fy ≤ y + 1 ∧ y ≤ fy + 7
    ∧ (x + 1 = fx ∨ x = fx + 7 ∨ y + 1 = fy ∨ y = fy + 7)

/-- (cx, cy) is the centre of an alignment pattern of version v: a pair of coordinates of ALIGN[v] but for the
three at the finders (45_symbol.md R245). -/
def AlignmentCentre (v : BitVec 6) (cx cy : Nat) : Prop :=
  cx ∈ alignAt v ∧ cy ∈ alignAt v ∧ ¬ (cx = 6 ∧ cy = 6) ∧ ¬ (cx = 6 ∧ cy = sideOf v - 7) ∧ ¬ (cx = sideOf v - 7 ∧ cy = 6)

/-- The distance of two coordinates. -/
def gap (a b : Nat) : Nat := (a - b) + (b - a)

/-- (x, y) is written by draw-structural for version v (45_symbol.md R243 to R246). -/
def StructuralModule (v : BitVec 6) (x y : Nat) : Prop :=
  (∃ fx fy, FinderCorner (sideOf v) fx fy ∧ fx ≤ x ∧ x < fx + 7 ∧ fy ≤ y ∧ y < fy + 7)
    ∨ SeparatorModule (sideOf v) x y
    ∨ (∃ cx cy, AlignmentCentre v cx cy ∧ gap x cx ≤ 2 ∧ gap y cy ≤ 2)
    ∨ (y = 6 ∧ 8 ≤ x ∧ x < sideOf v - 8) ∨ (x = 6 ∧ 8 ≤ y ∧ y < sideOf v - 8)

/-- The module of copy 1 that carries format bit i (45_symbol.md R252). -/
def formatPosition1 (i : Nat) : Nat × Nat :=
  if i < 6 then (8, i) else if i = 6 then (8, 7) else if i = 7 then (8, 8) else if i = 8 then (7, 8) else (14 - i, 8)

/-- The module of copy 2 that carries format bit i (45_symbol.md R252). -/
def formatPosition2 (s i : Nat) : Nat × Nat := if i < 8 then (s - 1 - i, 8) else (8, s - 15 + i)

/-- (x, y) is written by draw-meta for version v (45_symbol.md R252, R254, R255). -/
def MetaModule (v : BitVec 6) (x y : Nat) : Prop :=
  (∃ i, i < 15 ∧ ((x, y) = formatPosition1 i ∨ (x, y) = formatPosition2 (sideOf v) i))
    ∨ (x = 8 ∧ y = sideOf v - 8)
    ∨ (7 ≤ v.toNat ∧ ∃ i, i < 18 ∧ ((x, y) = (sideOf v - 11 + i % 3, i / 3) ∨ (x, y) = (i / 3, sideOf v - 11 + i % 3)))

/-- The number of column x's pair, counted from the right across the skipped column 6 (45_symbol.md R258). -/
def pairOf (s x : Nat) : Nat := if 6 < x then (s - 1 - x) / 2 else (s - 2 - x) / 2

/-- The place of (x, y) in the zig-zag of a symbol of side s, were every module unused (45_symbol.md R258): pair by pair from the right,
the rows of an even pair upward and of an odd pair downward, in each row the right column first. -/
def zigzagPlace (s : Nat) (p : Nat × Nat) : Nat :=
  2 * (pairOf s p.1 * s + if pairOf s p.1 % 2 = 0 then s - 1 - p.2 else p.2)
    + if 6 < p.1 then (s - 1 - p.1) % 2 else (s - 2 - p.1) % 2

/-- The shapes of a group's blocks (44_bitvector.md R221): COUNT blocks of DATA data and TOTAL - DATA ECC codewords. -/
def groupShapes (g : Group) : List BlockShape := List.replicate g.count.toNat ⟨g.data.toNat, g.total.toNat - g.data.toNat⟩

/-- The remainder over GF(2) of a polynomial with n bits above bit k by the polynomial g of degree k, as bits: from the highest bit
down, a 1 at bit k + j is cancelled by g times x^j (45_symbol.md R251, R253). -/
def bchRemainder : Nat → Nat → Nat → Nat → Nat
  | 0, _, _, d => d
  | n + 1, k, g, d => bchRemainder n k g (if d.testBit (k + n) then d ^^^ (g <<< n) else d)

/-- One module of the register scan of rule 3 at index k of a line of s modules, from the register and the count so far (46_mask.md R282). -/
def scanStep (line : List Bool) (r : Nat × Nat) (k : Nat) : Nat × Nat :=
  let buf := (2 * r.1 + (line.getD k false).toNat) % 0x800
  if buf = 0x05D ∨ buf = 0x5D0 ∨ (k = line.length - 1 ∧ buf % 0x80 = 0x5D) then (0x0FF, r.2 + 1) else (buf, r.2)

/-- The matches of rule 3 in a line (46_mask.md R282). -/
def scanMatches (line : List Bool) : Nat := ((List.range line.length).foldl (scanStep line) (0, 0)).2

/-- [i, i + l) is a maximal run of equal modules of the line (46_mask.md R280). -/
def maximalRun (line : List Bool) (i l : Nat) : Bool :=
  decide (0 < l) && decide (i + l ≤ line.length)
    && (List.range l).all (fun k => line.getD (i + k) false == line.getD i false)
    && (decide (i = 0) || line.getD (i - 1) false != line.getD i false)
    && (decide (i + l = line.length) || line.getD (i + l) false != line.getD i false)

/-- Rule 1 on one line, as a sum over the intervals of the line (46_mask.md R280). -/
def runPenaltySum (line : List Bool) : Nat :=
  ((List.range line.length).map fun i =>
    ((List.range (line.length + 1)).map fun l =>
      if maximalRun line i l = true ∧ 5 ≤ l then 3 + (l - 5) else 0).sum).sum

end Sys2Proof.Spec

open Sys2Proof Sys2Proof.Machine Sys2Proof.Spec

/-! ## Encoding -/

/-- Words written out from the spec's encodings stand for the commands the spec says (30_encoding.md R110, and the
examples of 40 to 46). -/
def Obligations.SpecWordsDecodeToTheirCommands : Prop :=
  decode 0x00000000 = .ok .nop ∧ decode 0xCA530010 = .ok (.gfMul 0x53 0xCA) ∧ decode 0xCA8F0011 = .ok (.gfDiv 0x8F 0xCA)
    ∧ decode 0x00020012 = .ok (.gfInv 0x02) ∧ decode 0x00001F22 = .ok (.pRem 3 3 1) ∧ decode 0x03010223 = .ok (.pMono 2 1 3)
    ∧ decode 0x00020328 = .ok (.pGen 3 2) ∧ decode 0x000A0129 = .ok (.pRsenc 1 0 10)
    ∧ decode 0x00200031 = .ok (.bvAppend 32) ∧ decode 0x00000038 = .ok .eccInterleave
    ∧ decode 0x00020042 = .ok (.gridMeta 2) ∧ decode 0x00000049 = .ok .maskSearch

/-- Decoding the encoding of any command, with any operands, gives it back (30_encoding.md R105, R111). -/
def Obligations.DecodeOfEncodeIsTheCommand : Prop := ∀ i : Instr, decode (encode i) = .ok i

/-- A word that decodes to a command is the encoding of that command: each word has one meaning (R105, R111). -/
def Obligations.EncodeOfDecodeIsTheWord : Prop := ∀ (w : Word) (i : Instr), decode w = .ok i → encode i = w

/-- A pending word is a command exactly when it matches a row of the opcode table; one that matches none raises
ILLEGAL_CMD at the sequencer's step, with ERRINFO the word, and changes nothing else (30_encoding.md R105). -/
def Obligations.UnmatchedWordsRaiseIllegalCmd : Prop :=
  (∀ w : Word, (∃ i, decode w = .ok i) ↔ ∃ r ∈ opcodeRows, w &&& r.2 = r.1) ∧
  ∀ (s : State) (w : Word) (ts : List Turn), s.pending = some w → SequencerNext s ts →
    (∀ r ∈ opcodeRows, w &&& r.2 ≠ r.1) → step s = .next (faulted { s with turns := ts } w 0x01)

/-! ## Steps, the bus, reset -/

/-- The sequencer's step of a pending command word that decodes to i is exec of i, on the state with the turn used
up (40_command.md R132, R133; the turn list is log 1's). -/
def Obligations.StepRunsTheDecodedCommand : Prop :=
  ∀ (s : State) (w : Word) (i : Instr) (ts : List Turn), s.pending = some w → SequencerNext s ts →
    decode w = .ok i → step s = exec i { s with turns := ts }

/-- A host write of w to CMD is refused while BUSY = 1, dropped while ERR = 1, and otherwise accepted, whatever the
word is (40_command.md R131; the refusal is R136's). -/
def Obligations.CommandWriteHasThreeOutcomes : Prop :=
  ∀ (s : State) (w : Word) (ts : List Turn), WriteNext s 0x00C w ts →
    (s.pending ≠ none → step s = .next
      (if s.err then { s with turns := ts } else { s with turns := ts, err := true, errcode := 0x02, errinfo := 0x00C })) ∧
    (s.pending = none → s.err = true → step s = .next { s with turns := ts }) ∧
    (s.pending = none → s.err = false → step s = .next
      { s with turns := ts, pending := some w, lastcmd := w, done := false })

/-- While BUSY = 1, a host write to CTRL or STATUS is performed as while BUSY = 0, and a write to any other offset
changes nothing but the error record of BUSY, if ERR = 0; the pending command stays pending and completes at its step
(40_command.md R136). -/
def Obligations.WritesWhileBusyAreRefused : Prop :=
  ∀ (s : State) (off : BitVec 20) (v : Word) (ts : List Turn), s.pending ≠ none → WriteNext s off v ts →
    (off ≠ 0x004 → off ≠ 0x008 → step s = .next
      (if s.err then { s with turns := ts } else { s with turns := ts, err := true, errcode := 0x02, errinfo := zext off })) ∧
    (off = 0x008 → step s = .next
      { s with
        turns := ts
        done := s.done && !v.getLsbD 1
        err := s.err && !v.getLsbD 2
        errcode := if v.getLsbD 2 then 0 else s.errcode }) ∧
    (off = 0x004 → v.getLsbD 31 = false → step s = .next { s with turns := ts, irqEn := v.getLsbD 0 }) ∧
    (off = 0x004 → v.getLsbD 31 = true → ∃ t, step s = .next t ∧ t.pending = none ∧ t.irqEn = false) ∧
    (off ≠ 0x004 → ∀ t ts', step s = .next t → SequencerNext t ts' → t.pending = s.pending ∧ ∃ u, step t = .next u ∧ u.pending = none)

/-- While BUSY = 1, a read of ID, CTRL, STATUS, CMD or ERRINFO returns its defined value, STATUS with bit 0 = 1, and a read of any
other offset a free 32-bit draw; nothing else changes (20_memory.md R90). That the draw is freeWord of the draw counter is the model's form of it (logs 3, 13). -/
def Obligations.ReadsWhileBusy : Prop :=
  ∀ (s : State) (off : BitVec 20) (ts : List Turn), s.pending ≠ none → ReadNext s off ts →
    (off = 0x000 → step s = .next { s with turns := ts, rdata := 0x51524331 }) ∧
    (off = 0x004 → step s = .next { s with turns := ts, rdata := ofBit s.irqEn }) ∧
    (off = 0x008 → step s = .next
      { s with turns := ts, rdata := 0#16 ++ s.errcode ++ 0#5 ++ BitVec.ofBool s.err ++ BitVec.ofBool s.done ++ 1#1 }) ∧
    (off = 0x00C → step s = .next { s with turns := ts, rdata := s.lastcmd }) ∧
    (off = 0x018 → step s = .next { s with turns := ts, rdata := s.errinfo }) ∧
    (off ∉ [0x000, 0x004, 0x008, 0x00C, 0x018] →
      step s = .next { s with turns := ts, rdata := Config.freeWord s.draws, draws := s.draws + 1 })

/-- A host read changes nothing of the CORE: only what the host sees, and the model's draw counter if the CORE is
busy. Repeated at once while BUSY = 0, it returns the same value (20_memory.md R82). -/
def Obligations.ReadsHaveNoSideEffects : Prop :=
  ∀ (s : State) (off : BitVec 20) (ts : List Turn), ReadNext s off ts →
    ∃ t, step s = .next t ∧ t = { s with turns := ts, rdata := t.rdata, draws := t.draws } ∧
      (s.pending = none → t.draws = s.draws ∧ ∀ ts', step { t with turns := .access (wordAccess off .read) :: ts' } =
        .next { t with turns := ts' })

/-- While BUSY = 0, reads of the registers return their fields in the places the register map gives them, and the
other bits and every reserved offset below 0x300 read 0 (10_state.md R21, R22, R38, R39, R40). -/
def Obligations.RegisterReadsFollowTheMap : Prop :=
  ∀ (s : State) (off : BitVec 20) (ts : List Turn), s.pending = none → ReadNext s off ts →
    ∃ t, step s = .next t ∧
      (off = 0x000 → t.rdata = 0x51524331) ∧
      (off = 0x004 → t.rdata = 0#31 ++ BitVec.ofBool s.irqEn) ∧
      (off = 0x008 → t.rdata = 0#16 ++ s.errcode ++ 0#5 ++ BitVec.ofBool s.err ++ BitVec.ofBool s.done ++ 0#1) ∧
      (off = 0x00C → t.rdata = s.lastcmd) ∧ (off = 0x010 → t.rdata = s.arg0) ∧
      (off = 0x014 → t.rdata = s.result) ∧ (off = 0x018 → t.rdata = s.errinfo) ∧
      (∀ p : PReg, off.toNat = 0x020 + 4 * p.val → t.rdata = 0#23 ++ s.polys[p].len) ∧
      (off = 0x030 → t.rdata = 0#16 ++ s.bv.len) ∧ (off = 0x034 → t.rdata = 0#16 ++ s.cw.len) ∧
      (off = 0x040 → t.rdata = 0#26 ++ s.version) ∧ (off = 0x044 → t.rdata = 0#30 ++ s.level) ∧
      (off = 0x048 → t.rdata = 0#8 ++ s.g1.data ++ s.g1.total ++ s.g1.count) ∧
      (off = 0x04C → t.rdata = 0#8 ++ s.g2.data ++ s.g2.total ++ s.g2.count) ∧
      (off = 0x050 → t.rdata = 0#29 ++ s.rembits) ∧ (off = 0x054 → t.rdata = 0#26 ++ s.gridVer) ∧
      (off = 0x058 → t.rdata = BitVec.ofBool s.bestValid ++ 0#28 ++ s.bestMask) ∧ (off = 0x05C → t.rdata = s.bestPen) ∧
      (off = 0x060 → t.rdata.toNat = unusedModules s) ∧
      (off = 0x064 → s.gridVer.toNat ≤ 40 → t.rdata.toNat =
        if s.gridVer = 0 then 0 else sideOf s.gridVer + 256 * (sideOf s.gridVer + 8)) ∧
      (∀ m : Fin 8, off.toNat = 0x200 + 0x20 * m.val → t.rdata = s.score[m].p1) ∧
      (∀ m : Fin 8, off.toNat = 0x204 + 0x20 * m.val → t.rdata = s.score[m].p2) ∧
      (∀ m : Fin 8, off.toNat = 0x208 + 0x20 * m.val → t.rdata = s.score[m].p3) ∧
      (∀ m : Fin 8, off.toNat = 0x20C + 0x20 * m.val → t.rdata = s.score[m].p4) ∧
      (∀ m : Fin 8, off.toNat = 0x210 + 0x20 * m.val → t.rdata = s.score[m].total) ∧
      (∀ (m : Fin 8) (r : Nat), 5 ≤ r → r < 8 → off.toNat = 0x200 + 0x20 * m.val + 4 * r → t.rdata = 0) ∧
      (off.toNat < 0x200 → off ∉ registerOffsets → t.rdata = 0)

/-- While BUSY = 0, reads of the windows return the coefficients, the masked bytes of BV and CW in little-endian lanes, the
modules of the symbol, and the bitmap with its quiet zone; unmapped offsets read 0
(20_memory.md R73, R76, R77, R78, R79, R80, R81). -/
def Obligations.WindowReadsFollowTheMap : Prop :=
  ∀ (s : State) (off : BitVec 20) (ts : List Turn), s.pending = none → ReadNext s off ts →
    ∃ t, step s = .next t ∧
      (∀ (p : PReg) (i : Fin 256), off.toNat = 0x02000 + 0x400 * p.val + 4 * i.val → t.rdata = 0#24 ++ s.polys[p].c[i]) ∧
      (∀ w j, w < 1024 → j < 32 → off.toNat = 0x04000 + 4 * w →
        t.rdata.getLsbD j = (decide (32 * w + 8 * (j / 8) + (7 - j % 8) < s.bv.len.toNat) && s.bv.bit (32 * w + 8 * (j / 8) + (7 - j % 8)))) ∧
      (∀ w j, w < 1024 → j < 32 → off.toNat = 0x05000 + 4 * w →
        t.rdata.getLsbD j = (decide (32 * w + 8 * (j / 8) + (7 - j % 8) < s.cw.len.toNat) && s.cw.bit (32 * w + 8 * (j / 8) + (7 - j % 8)))) ∧
      (∀ x y, x < 256 → y < 256 → off.toNat = 0x40000 + 4 * (256 * y + x) → t.rdata =
        if s.gridVer ≠ 0 ∧ x < sideOf s.gridVer ∧ y < sideOf s.gridVer then
          0#30 ++ BitVec.ofBool (s.grid.get x y).used ++ BitVec.ofBool (s.grid.get x y).val
        else 0) ∧
      (∀ x y, x < 256 → y < 256 → off.toNat = 0x80000 + 4 * (256 * y + x) → t.rdata =
        if s.gridVer ≠ 0 ∧ 4 ≤ x ∧ x < sideOf s.gridVer + 4 ∧ 4 ≤ y ∧ y < sideOf s.gridVer + 4 then
          0#31 ++ BitVec.ofBool (s.grid.get (x - 4) (y - 4)).val
        else 0) ∧
      ((0x00300 ≤ off.toNat ∧ off.toNat < 0x01000) ∨ (0x01800 ≤ off.toNat ∧ off.toNat < 0x02000)
        ∨ (0x03000 ≤ off.toNat ∧ off.toNat < 0x04000) ∨ (0x06000 ≤ off.toNat ∧ off.toNat < 0x40000)
        ∨ 0xC0000 ≤ off.toNat → t.rdata = 0)

/-- While BUSY = 0, a host write to a read-write register or window stores the defined field bits and nothing else; a
write to a read-only, reserved or unmapped offset changes nothing (10_state.md R41, 20_memory.md R76, R78, R81). -/
def Obligations.IdleWritesStoreTheirFields : Prop :=
  ∀ (s : State) (off : BitVec 20) (v : Word) (ts : List Turn), s.pending = none → WriteNext s off v ts →
    (off = 0x004 → v.getLsbD 31 = false → step s = .next { s with turns := ts, irqEn := v.getLsbD 0 }) ∧
    (off = 0x010 → step s = .next { s with turns := ts, arg0 := v }) ∧
    (∀ p : PReg, off.toNat = 0x020 + 4 * p.val → step s = .next
      { s with turns := ts, polys := s.polys.set p ⟨s.polys[p].c, v.extractLsb' 0 9⟩ }) ∧
    (off = 0x040 → step s = .next { s with turns := ts, version := v.extractLsb' 0 6 }) ∧
    (off = 0x044 → step s = .next { s with turns := ts, level := v.extractLsb' 0 2 }) ∧
    (off = 0x048 → step s = .next
      { s with turns := ts, g1 := ⟨v.extractLsb' 0 8, v.extractLsb' 8 8, v.extractLsb' 16 8⟩ }) ∧
    (off = 0x04C → step s = .next
      { s with turns := ts, g2 := ⟨v.extractLsb' 0 8, v.extractLsb' 8 8, v.extractLsb' 16 8⟩ }) ∧
    (off = 0x050 → step s = .next { s with turns := ts, rembits := v.extractLsb' 0 3 }) ∧
    (∀ (p : PReg) (i : Fin 256), off.toNat = 0x02000 + 0x400 * p.val + 4 * i.val → step s = .next
      { s with turns := ts, polys := s.polys.set p ⟨s.polys[p].c.set i (v.extractLsb' 0 8), s.polys[p].len⟩ }) ∧
    (∀ x y, x < 256 → y < 256 → off.toNat = 0x40000 + 4 * (256 * y + x) → ∃ g, step s = .next { s with turns := ts, grid := g } ∧
      ∀ x' y', x' < 177 → y' < 177 → g.get x' y' =
        if s.gridVer ≠ 0 ∧ x < sideOf s.gridVer ∧ y < sideOf s.gridVer ∧ x' = x ∧ y' = y then ⟨v.getLsbD 0, v.getLsbD 1⟩
        else s.grid.get x' y') ∧
    (off ∉ [0x004, 0x008, 0x00C, 0x010, 0x020, 0x024, 0x028, 0x02C, 0x040, 0x044, 0x048, 0x04C, 0x050] →
      ¬ (0x02000 ≤ off.toNat ∧ off.toNat < 0x03000) → ¬ (0x40000 ≤ off.toNat ∧ off.toNat < 0x80000) →
      step s = .next { s with turns := ts })

/-- A CTRL write with bit 31 = 1 performs a soft reset at any time: every register at its reset value, a pending command
discarded, the other bits of the word ignored, no error and no DONE; the coefficients of P0 to P3 are new free draws, and the
host's turns go on (70_reset_and_hazards.md R341 with the values of R340). A hardware reset gives the same. That the draws are freeCoeff of
the draw counter is the model's form (logs 2, 13). -/
def Obligations.ResetGivesTheResetState : Prop :=
  ∀ s ts, ((∃ v, WriteNext s 0x004 v ts ∧ v.getLsbD 31 = true) ∨ s.turns = .hardReset :: ts) →
    ∃ t, step s = .next t ∧ t.irqEn = false ∧ t.done = false ∧ t.err = false ∧ t.errcode = 0 ∧ t.pending = none ∧
      t.lastcmd = 0 ∧ t.arg0 = 0 ∧ t.result = 0 ∧ t.errinfo = 0 ∧ t.bv.len = 0 ∧ t.cw.len = 0 ∧ t.version = 1 ∧ t.level = 0 ∧
      t.g1 = ⟨0, 0, 0⟩ ∧ t.g2 = ⟨0, 0, 0⟩ ∧ t.rembits = 0 ∧ t.gridVer = 0 ∧ t.bestValid = false ∧ t.bestMask = 0 ∧
      t.bestPen = 0 ∧ unusedModules t = 0 ∧ t.sizeWord = 0 ∧ t.irq = false ∧ t.turns = ts ∧
      (∀ m : Fin 8, t.score[m] = ⟨0, 0, 0, 0, 0⟩) ∧
      (∀ p : PReg, t.polys[p].len = 0 ∧ ∀ i : Fin 256, t.polys[p].c[i] = Config.freeCoeff (s.draws + 256 * p.val + i.val))

/-- The state after the first reset holds the values the spec gives (70_reset_and_hazards.md R340), and the CORE is idle: the one step
it has there changes nothing. The empty turn list and the idle step are the model's (log 1), and so is the form of the coefficients'
free draws (logs 2, 13). -/
def Obligations.ResetStateIsIdle : Prop :=
  let s := State.reset
  s.irqEn = false ∧ s.done = false ∧ s.err = false ∧ s.errcode = 0 ∧ s.pending = none ∧ s.lastcmd = 0 ∧ s.arg0 = 0 ∧ s.result = 0 ∧
    s.errinfo = 0 ∧ s.bv.len = 0 ∧ s.cw.len = 0 ∧ s.version = 1 ∧ s.level = 0 ∧ s.g1 = ⟨0, 0, 0⟩ ∧ s.g2 = ⟨0, 0, 0⟩ ∧ s.rembits = 0 ∧
    s.gridVer = 0 ∧ s.bestValid = false ∧ s.bestMask = 0 ∧ s.bestPen = 0 ∧ (∀ m : Fin 8, s.score[m] = ⟨0, 0, 0, 0, 0⟩) ∧
    s.statusWord = 0 ∧ s.ctrlWord = 0 ∧ s.bestWord = 0 ∧ unusedModules s = 0 ∧ s.sizeWord = 0 ∧ s.irq = false ∧
    (∀ p : PReg, s.polys[p].len = 0 ∧ s.polys[p].value = [] ∧ ∀ i : Fin 256, s.polys[p].c[i] = Config.freeCoeff (256 * p.val + i.val)) ∧
    step s = .next s

/-- A STATUS write with bit 2 = 1 clears ERR and ERRCODE, with bit 1 = 1 clears DONE, at any time; nothing else changes,
BUSY and ERRINFO among it, and a pending command still completes; once ERR is cleared while BUSY = 0, the next CMD write is
accepted (60_exceptions.md R315). -/
def Obligations.StatusWriteClearsTheFlags : Prop :=
  ∀ (s : State) (v : Word) (ts : List Turn), WriteNext s 0x008 v ts →
    step s = .next
      { s with
        turns := ts
        done := s.done && !v.getLsbD 1
        err := s.err && !v.getLsbD 2
        errcode := if v.getLsbD 2 then 0 else s.errcode } ∧
    (∀ t ts', step s = .next t → SequencerNext t ts' → ∃ u, step t = .next u ∧ u.pending = none) ∧
    (v.getLsbD 2 = true → s.pending = none → ∀ (t : State) (w : Word) (ts' : List Turn), step s = .next t →
      WriteNext t 0x00C w ts' → ∃ u, step t = .next u ∧ u.pending = some w ∧ u.lastcmd = w ∧ u.done = false)

/-- IRQ is 1 exactly while IRQ_EN = 1 and DONE or ERR is 1; a STATUS write of ones to the bits that are set, or a CTRL write
that clears IRQ_EN, takes it to 0; reset gives 0 (60_exceptions.md R320). -/
def Obligations.InterruptFollowsDoneAndErr : Prop :=
  (∀ s : State, s.irq = true ↔ s.irqEn = true ∧ (s.done = true ∨ s.err = true)) ∧ State.reset.irq = false ∧
  ∀ (s : State) (v : Word) (ts : List Turn), (∀ t, WriteNext s 0x008 v ts → (s.done = true → v.getLsbD 1 = true) →
      (s.err = true → v.getLsbD 2 = true) → step s = .next t → t.irq = false) ∧
    (∀ t, WriteNext s 0x004 v ts → v.getLsbD 0 = false → step s = .next t → t.irq = false)

/-- A host access that is not a whole aligned 32-bit word has no step; every other access has one (20_memory.md R72). -/
def Obligations.AccessesOutsideTheContractAreRefused : Prop :=
  ∀ (s : State) (a : Access) (ts : List Turn), s.turns = .access a :: ts →
    ((a.width ≠ .bits32 ∨ a.enables ≠ 0xF ∨ a.off.toNat % 4 ≠ 0) → ∃ r, step s = .refused r) ∧
    (a.width = .bits32 → a.enables = 0xF → a.off.toNat % 4 = 0 → ∃ t, step s = .next t)

/-- The machine never stops but on an access outside the bus contract: every other step, every command among them,
answers a next state (60_exceptions.md R311, R316). -/
def Obligations.StepsInsideTheContractAnswerNext : Prop :=
  ∀ s : State, (∀ t ts, s.turns = t :: ts → t.wellFormed = true) → ∃ t, step s = .next t

/-- The invariant of the CORE's state is kept by every step, from every state that meets it. -/
def Obligations.EveryStepKeepsTheInvariant : Prop :=
  ∀ s t : State, s.Inv → step s = .next t → t.Inv

/-- The reset state meets the invariant. -/
def Obligations.ResetMeetsTheInvariant : Prop := State.reset.Inv

/-- A pending command completes: once the turns are used up and one more step is taken, nothing is pending, if every
access is inside the bus contract (70_reset_and_hazards.md R356 in the form of log 10). -/
def Obligations.PendingCommandsComplete : Prop :=
  ∀ s : State, (∀ t ∈ s.turns, t.wellFormed = true) →
    ∃ t, core.run (s.turns.length + 1) s = .next t ∧ t.pending = none ∧ t.turns = []

/-! ## Rules about all commands -/

/-- Every command either completes (DONE set, BUSY cleared, the error record untouched) or faults with one of its codes and
changes only BUSY and the error record, where an error already recorded stays (40_command.md R133, 60_exceptions.md R311, R312). -/
def Obligations.CommandsCompleteOrFaultPrecisely : Prop :=
  ∀ (i : Instr) (s : State) (w : Word), s.pending = some w →
    (∃ t, exec i s = .next t ∧ t.done = true ∧ t.pending = none ∧ t.err = s.err ∧ t.errcode = s.errcode ∧ t.errinfo = s.errinfo) ∨
    ∃ e ∈ faultCodes i, exec i s = .next (faulted s w e)

/-- RESULT is written only by GF_MUL, GF_DIV, GF_INV, BV_AT and BV_BYTEAT, each with a zero-extended value; all other
commands leave it unchanged, and no other step but a reset writes it (10_state.md R27). -/
def Obligations.ResultHasFiveWriters : Prop :=
  (∀ (i : Instr) (s t : State), exec i s = .next t →
    ((∀ a b, i ≠ .gfMul a b) → (∀ a b, i ≠ .gfDiv a b) → (∀ a, i ≠ .gfInv a) → i ≠ .bvAt → i ≠ .bvByteat → t.result = s.result) ∧
    (t.result ≠ s.result → t.result.toNat < 256)) ∧
  ∀ s t : State, step s = .next t → t.result ≠ s.result → (Resets s ∧ t.result = 0) ∨ (∃ a b, Executes s (.gfMul a b))
    ∨ (∃ a b, Executes s (.gfDiv a b)) ∨ (∃ a, Executes s (.gfInv a)) ∨ Executes s .bvAt ∨ Executes s .bvByteat

/-- No command writes a register that the host writes: CTRL, ARG0, VERSION, LEVEL, G1, G2, REMBITS, nor LASTCMD; and none
touches the host's side (10_state.md R26, 40_command.md R134). -/
def Obligations.CommandsWriteNoHostRegister : Prop :=
  ∀ (i : Instr) (s t : State), exec i s = .next t →
    t.irqEn = s.irqEn ∧ t.lastcmd = s.lastcmd ∧ t.arg0 = s.arg0 ∧ t.version = s.version ∧ t.level = s.level ∧ t.g1 = s.g1 ∧
      t.g2 = s.g2 ∧ t.rembits = s.rembits ∧ t.turns = s.turns ∧ t.rdata = s.rdata ∧ t.draws = s.draws

/-- BV_LEN is changed only by BV_CLEAR, which sets it to 0, by BV_APPEND, which increases it, and by reset; CW_LEN only by
ECC_INTERLEAVE and by reset; both stay in 0 to 32768 (10_state.md R30, R31). -/
def Obligations.LengthsHaveNamedWriters : Prop :=
  ∀ s t : State, s.Inv → step s = .next t →
    (t.bv.len ≠ s.bv.len → (Resets s ∧ t.bv.len = 0) ∨ (Executes s .bvClear ∧ t.bv.len = 0)
      ∨ ∃ n, Executes s (.bvAppend n) ∧ s.bv.len.toNat < t.bv.len.toNat) ∧
    (t.cw.len ≠ s.cw.len → (Resets s ∧ t.cw.len = 0) ∨ Executes s .eccInterleave) ∧
    t.bv.len.toNat ≤ 32768 ∧ t.cw.len.toNat ≤ 32768

/-- GRID_VER is changed only by reset and by GRID_CLEAR, GRID_STRUCT, GRID_BUILD and MASK_SEARCH, which set it to VERSION;
BEST and BEST_PEN only by reset and MASK_SEARCH; the grid in addition by GRID_META, GRID_DATA and the host's writes to the
GRID window (10_state.md R36, R37). -/
def Obligations.GridStateHasNamedWriters : Prop :=
  ∀ s t : State, step s = .next t →
    (t.gridVer ≠ s.gridVer → (Resets s ∧ t.gridVer = 0) ∨ (t.gridVer = s.version ∧
      (Executes s .gridClear ∨ Executes s .gridStruct ∨ (∃ m, Executes s (.gridBuild m)) ∨ Executes s .maskSearch))) ∧
    ((t.bestValid ≠ s.bestValid ∨ t.bestMask ≠ s.bestMask ∨ t.bestPen ≠ s.bestPen) → Resets s ∨ Executes s .maskSearch) ∧
    (t.grid ≠ s.grid → Resets s ∨ Executes s .gridClear ∨ Executes s .gridStruct ∨ (∃ m, Executes s (.gridMeta m))
      ∨ (∃ m, Executes s (.gridData m)) ∨ (∃ m, Executes s (.gridBuild m)) ∨ Executes s .maskSearch
      ∨ ∃ off v ts, WriteNext s off v ts ∧ s.pending = none ∧ 0x40000 ≤ off.toNat ∧ off.toNat < 0x80000)

/-! ## NOP and GF(2^8) -/

/-- NOP completes and changes nothing else; its only word is 0 (40_command.md R138). -/
def Obligations.NopOnlyCompletes : Prop :=
  decode 0 = .ok .nop ∧ (∀ w : Word, w &&& 0xFF = 0 → w ≠ 0 → RaisesIllegal w) ∧
  ∀ s : State, exec .nop s = .next { s with done := true, pending := none }

/-- The EXP and LOG windows read, in every idle state, tables that follow the rule of R150: EXP[0] = 1, each next entry xtime
of the one before, EXP[255] = 1, LOG the inverse of EXP, LOG[0] = 0 (41_gf256.md R150, 20_memory.md R74, R75). -/
def Obligations.GfTablesAreTheSpecs : Prop :=
  ∃ e l : Nat → Byte, e 0 = 1 ∧ (∀ i, i < 254 → e (i + 1) = (e i <<< 1) ^^^ (if (e i).getLsbD 7 then 0x1D else 0)) ∧ e 255 = 1 ∧
    (∀ i, i < 255 → (l (e i).toNat).toNat = i) ∧ l 0 = 0 ∧
    ∀ (s : State) (off : BitVec 20) (ts : List Turn) (i : Nat), s.pending = none → ReadNext s off ts → i < 256 →
      (off.toNat = 0x01000 + 4 * i → step s = .next { s with turns := ts, rdata := 0#24 ++ e i }) ∧
      (off.toNat = 0x01400 + 4 * i → step s = .next { s with turns := ts, rdata := 0#24 ++ l i })

/-- The field laws of 41_gf256.md R155. -/
def Obligations.FieldLaws : Prop :=
  (∀ a b, a ≠ 0 → b ≠ 0 → gfdiv (gfmul a b) b = a) ∧ (∀ a, a ≠ 0 → gfmul a (gfinv a) = 1) ∧
    (∀ a b, gfmul a b = gfmul b a) ∧ (∀ a b c, gfmul a (b ^^^ c) = gfmul a b ^^^ gfmul a c) ∧
    (∀ a, gfmul a 1 = a) ∧ (∀ a, gfmul a 0 = 0) ∧
    (∀ i j, i < 255 → j < 255 → gfmul (expAt i) (expAt j) = expAt ((i + j) % 255))

/-- GF_MUL: its words, and RESULT = gfmul(a, b), 0 if a factor is 0 and else EXP[(LOG[a] + LOG[b]) mod 255]; nothing else
changes (41_gf256.md R152). -/
def Obligations.GfMulWritesTheProduct : Prop :=
  (∀ a b, decode ((zext b <<< 24) ||| (zext a <<< 16) ||| 0x10) = .ok (.gfMul a b)) ∧
  (∀ w : Word, w &&& 0xFF = 0x10 → w &&& 0xFF00 ≠ 0 → RaisesIllegal w) ∧
  (∀ (a b : Byte) (s : State), exec (.gfMul a b) s = .next
    { s with
      result := 0#24 ++ (if a = 0 ∨ b = 0 then 0 else expAt ((logAt a + logAt b) % 255))
      done := true
      pending := none }) ∧
  (∀ b, gfmul 1 b = b) ∧ (∀ a b, gfmul a b = gfmul b a) ∧ gfmul 0x53 0xCA = 0x8F

/-- GF_DIV: a zero divisor faults with GF_ZERO_DIVISOR whatever a is; otherwise RESULT is 0 for a = 0 and else
EXP[(LOG[a] - LOG[b]) mod 255], and nothing else changes (41_gf256.md R153). -/
def Obligations.GfDivWritesTheQuotient : Prop :=
  (∀ a b, decode ((zext b <<< 24) ||| (zext a <<< 16) ||| 0x11) = .ok (.gfDiv a b)) ∧
  (∀ w : Word, w &&& 0xFF = 0x11 → w &&& 0xFF00 ≠ 0 → RaisesIllegal w) ∧
  (∀ (a : Byte) (s : State) (w : Word), s.pending = some w → exec (.gfDiv a 0) s = .next (faulted s w 0x03)) ∧
  (∀ (a b : Byte) (s : State), b ≠ 0 → exec (.gfDiv a b) s = .next
    { s with
      result := 0#24 ++ (if a = 0 then 0 else expAt (((logAt a : Int) - (logAt b : Int)) % 255).toNat)
      done := true
      pending := none }) ∧
  (∀ a, gfdiv a 1 = a) ∧ (∀ a, a ≠ 0 → gfdiv a a = 1) ∧ gfdiv 0x8F 0xCA = 0x53

/-- GF_INV: the inverse of 0 faults with GF_ZERO_INVERSE; otherwise RESULT = EXP[(255 - LOG[a]) mod 255], and nothing else
changes (41_gf256.md R154). -/
def Obligations.GfInvWritesTheInverse : Prop :=
  (∀ a, decode ((zext a <<< 16) ||| 0x12) = .ok (.gfInv a)) ∧
  (∀ w : Word, w &&& 0xFF = 0x12 → w &&& 0xFF00FF00 ≠ 0 → RaisesIllegal w) ∧
  (∀ (s : State) (w : Word), s.pending = some w → exec (.gfInv 0) s = .next (faulted s w 0x04)) ∧
  (∀ (a : Byte) (s : State), a ≠ 0 → exec (.gfInv a) s = .next
    { s with result := 0#24 ++ expAt ((255 - logAt a) % 255), done := true, pending := none }) ∧
  gfinv 1 = 1 ∧ (∀ a, a ≠ 0 → gfinv (gfinv a) = a) ∧ gfinv 2 = 0x8E

/-! ## Polynomials -/

/-- P_ADD: POLY_LENGTH if an operand's PLEN is above 256; otherwise register RD holds, normalized, the sum of the operands'
values coefficient by coefficient, read before it is written, and nothing else changes (42_gfpoly.md R173, R170, R171, R172). -/
def Obligations.PAddWritesTheSum : Prop :=
  Poly.add [1, 0, 7] [1, 2] = [0, 2, 7] ∧
  (∀ rd ra rb : PReg, decode (regField rb <<< 12 ||| regField ra <<< 10 ||| regField rd <<< 8 ||| 0x20) = .ok (.pAdd rd ra rb)) ∧
  (∀ w : Word, w &&& 0xFF = 0x20 → w &&& 0xFFFFC000 ≠ 0 → RaisesIllegal w) ∧
  ∀ (rd ra rb : PReg) (s : State) (w : Word), s.pending = some w →
    (256 < plen s ra ∨ 256 < plen s rb → exec (.pAdd rd ra rb) s = .next (faulted s w 0x07)) ∧
    (plen s ra ≤ 256 → plen s rb ≤ 256 → ∃ r,
      exec (.pAdd rd ra rb) s = .next { s with polys := s.polys.set rd r, done := true, pending := none } ∧
        Holds r fun k => coeff s ra k ^^^ coeff s rb k)

/-- P_MUL: POLY_LENGTH as for P_ADD; POLY_OVERFLOW exactly when the product needs a coefficient above x^255, which a zero
operand never does; otherwise RD holds the product, each coefficient the exclusive or over all i + j = k (42_gfpoly.md R174). -/
def Obligations.PMulWritesTheProduct : Prop :=
  Poly.mul [2, 1] [3, 1] = [6, 1, 1] ∧
  (∀ rd ra rb : PReg, decode (regField rb <<< 12 ||| regField ra <<< 10 ||| regField rd <<< 8 ||| 0x21) = .ok (.pMul rd ra rb)) ∧
  (∀ w : Word, w &&& 0xFF = 0x21 → w &&& 0xFFFFC000 ≠ 0 → RaisesIllegal w) ∧
  ∀ (rd ra rb : PReg) (s : State) (w : Word), s.pending = some w →
    (256 < plen s ra ∨ 256 < plen s rb → exec (.pMul rd ra rb) s = .next (faulted s w 0x07)) ∧
    (plen s ra ≤ 256 → plen s rb ≤ 256 → (∃ i j, coeff s ra i ≠ 0 ∧ coeff s rb j ≠ 0 ∧ 255 < i + j) →
      exec (.pMul rd ra rb) s = .next (faulted s w 0x06)) ∧
    (plen s ra ≤ 256 → plen s rb ≤ 256 → (∀ i j, coeff s ra i ≠ 0 → coeff s rb j ≠ 0 → i + j ≤ 255) → ∃ r,
      exec (.pMul rd ra rb) s = .next { s with polys := s.polys.set rd r, done := true, pending := none } ∧
        Holds r (conv (coeff s ra) (coeff s rb)))

/-- P_REM: POLY_LENGTH as for P_ADD; POLY_ZERO_DIVISOR if the denominator's value is zero; otherwise RD holds the R with
N = Q·D + R for a polynomial Q and deg R < deg D, and nothing else changes (42_gfpoly.md R175, R177). -/
def Obligations.PRemWritesTheRemainder : Prop :=
  (∀ rd ra rb : PReg, decode (regField rb <<< 12 ||| regField ra <<< 10 ||| regField rd <<< 8 ||| 0x22) = .ok (.pRem rd ra rb)) ∧
  (∀ w : Word, w &&& 0xFF = 0x22 → w &&& 0xFFFFC000 ≠ 0 → RaisesIllegal w) ∧
  Poly.rem [0, 0, 0, 1] [2, 0, 1] = [0, 2] ∧
  ∀ (rd ra rb : PReg) (s : State) (w : Word), s.pending = some w →
    (256 < plen s ra ∨ 256 < plen s rb → exec (.pRem rd ra rb) s = .next (faulted s w 0x07)) ∧
    (plen s ra ≤ 256 → plen s rb ≤ 256 → (∀ k, coeff s rb k = 0) → exec (.pRem rd ra rb) s = .next (faulted s w 0x05)) ∧
    (plen s ra ≤ 256 → plen s rb ≤ 256 → ∀ d, coeff s rb d ≠ 0 → (∀ k, d < k → coeff s rb k = 0) → ∃ r f q,
      exec (.pRem rd ra rb) s = .next { s with polys := s.polys.set rd r, done := true, pending := none } ∧ Holds r f ∧
        (∀ k, d ≤ k → f k = 0) ∧ (∀ k, 256 ≤ k → q k = 0) ∧ ∀ k, coeff s ra k = conv q (coeff s rb) k ^^^ f k)

/-- P_MONO: RD holds c·x^k, the zero polynomial if c = 0, and nothing else changes (42_gfpoly.md R176). -/
def Obligations.PMonoWritesTheMonomial : Prop :=
  (∀ (rd : PReg) (c k : Byte), decode (zext k <<< 24 ||| zext c <<< 16 ||| regField rd <<< 8 ||| 0x23) = .ok (.pMono rd c k)) ∧
  (∀ w : Word, w &&& 0xFF = 0x23 → w &&& 0xFC00 ≠ 0 → RaisesIllegal w) ∧
  ∀ (rd : PReg) (c k : Byte) (s : State), ∃ r,
    exec (.pMono rd c k) s = .next { s with polys := s.polys.set rd r, done := true, pending := none } ∧
      Holds r fun j => if j = k.toNat then c else 0

/-- P_GEN: RD holds g_n, the product of the x + EXP[i] for i < n, monic and of length n + 1; nothing else changes
(43_reed_solomon.md R190, R191). -/
def Obligations.PGenWritesTheGenerator : Prop :=
  (∀ (rd : PReg) (n : Byte), decode (zext n <<< 16 ||| regField rd <<< 8 ||| 0x28) = .ok (.pGen rd n)) ∧
  (∀ w : Word, w &&& 0xFF = 0x28 → w &&& 0xFF00FC00 ≠ 0 → RaisesIllegal w) ∧
  genPoly 3 = [8, 14, 7, 1] ∧
  ∀ (rd : PReg) (n : Byte) (s : State), ∃ r,
    exec (.pGen rd n) s = .next { s with polys := s.polys.set rd r, done := true, pending := none } ∧
      Holds r (genCoeff n.toNat) ∧ r.len.toNat = n.toNat + 1 ∧ genCoeff n.toNat n.toNat = 1

/-- P_RSENC: POLY_LENGTH if the operand's PLEN is above 256; otherwise RD holds the R with A·x^n = Q·g_n + R for a
polynomial Q and deg R < n, at full width, and nothing else changes (43_reed_solomon.md R193). -/
def Obligations.PRsencWritesTheRemainder : Prop :=
  (∀ (rd ra : PReg) (n : Byte), decode (zext n <<< 16 ||| regField ra <<< 10 ||| regField rd <<< 8 ||| 0x29) = .ok (.pRsenc rd ra n)) ∧
  (∀ w : Word, w &&& 0xFF = 0x29 → w &&& 0xFF00F000 ≠ 0 → RaisesIllegal w) ∧
  ∀ (rd ra : PReg) (n : Byte) (s : State) (w : Word), s.pending = some w →
    (256 < plen s ra → exec (.pRsenc rd ra n) s = .next (faulted s w 0x07)) ∧
    (plen s ra ≤ 256 → ∃ r f q,
      exec (.pRsenc rd ra n) s = .next { s with polys := s.polys.set rd r, done := true, pending := none } ∧ Holds r f ∧
        (∀ k, n.toNat ≤ k → f k = 0) ∧ (∀ k, 256 ≤ k → q k = 0) ∧
        ∀ k, (if k < n.toNat then 0 else coeff s ra (k - n.toNat)) = conv q (genCoeff n.toNat) k ^^^ f k)

/-- The codewords of a block have zero syndromes: with the n ECC bytes of R192 after the data bytes, the codeword polynomial is 0
at α^i for every i < n (43_reed_solomon.md R194). -/
def Obligations.CodewordsHaveZeroSyndromes : Prop :=
  ∀ (d : List Byte) (n i : Nat), n ≤ 255 → i < n →
    (rsEcc d n).length = n ∧ evalBytes (d ++ rsEcc d n) (expAt i) = 0

/-! ## The bit vector and the interleaver -/

/-- BV_CLEAR: BV_LEN becomes 0; no stored bit, no byte of memory and nothing else changes; its only word is 0x30. Every read path
of an empty vector gives 0 (44_bitvector.md R211). -/
def Obligations.BvClearEmptiesTheVector : Prop :=
  decode 0x30 = .ok .bvClear ∧ (∀ w : Word, w &&& 0xFF = 0x30 → w ≠ 0x30 → RaisesIllegal w) ∧
  (∀ s : State, exec .bvClear s = .next { s with bv := ⟨s.bv.ram, 0⟩, done := true, pending := none }) ∧
  ∀ (m : Memory) (k : Nat), (BitRam.mk m 0).window k = 0 ∧ (BitRam.mk m 0).byteAt k = 0

/-- BV_APPEND: BAD_OPERAND for n > 32, then BV_OVERFLOW past 32768 bits; otherwise the low n bits of ARG0, most
significant first, follow the bits of BV, BV_LEN grows by n, and no other bit or byte of BV's memory and nothing else changes
(44_bitvector.md R212). The premise that BV's memory is in canonical form is part of the invariant that every step keeps. -/
def Obligations.BvAppendAppendsTheLowBits : Prop :=
  (∀ n, decode (zext n <<< 16 ||| 0x31) = .ok (.bvAppend n)) ∧
  (∀ w : Word, w &&& 0xFF = 0x31 → w &&& 0xFF00FF00 ≠ 0 → RaisesIllegal w) ∧
  ∀ (n : Byte) (s : State) (w : Word), s.pending = some w →
    (32 < n.toNat → exec (.bvAppend n) s = .next (faulted s w 0x0A)) ∧
    (n.toNat ≤ 32 → 32768 < s.bv.len.toNat + n.toNat → exec (.bvAppend n) s = .next (faulted s w 0x08)) ∧
    (n.toNat ≤ 32 → s.bv.len.toNat + n.toNat ≤ 32768 → Memory.wf s.bv.ram → ∃ b,
      exec (.bvAppend n) s = .next { s with bv := b, done := true, pending := none } ∧ b.len.toNat = s.bv.len.toNat + n.toNat ∧
        (∀ k, k < n.toNat → b.bit (s.bv.len.toNat + k) = s.arg0.getLsbD (n.toNat - 1 - k)) ∧
        (∀ j, j < s.bv.len.toNat ∨ s.bv.len.toNat + n.toNat ≤ j → b.bit j = s.bv.bit j) ∧
        ∀ a, 8 * a + 7 < s.bv.len.toNat ∨ s.bv.len.toNat + n.toNat ≤ 8 * a → Memory.read b.ram a = Memory.read s.bv.ram a)

/-- BV_AT: BV_RANGE for an index at or above BV_LEN; otherwise RESULT is that bit, and nothing else changes
(44_bitvector.md R213). -/
def Obligations.BvAtReadsOneBit : Prop :=
  decode 0x32 = .ok .bvAt ∧ (∀ w : Word, w &&& 0xFF = 0x32 → w ≠ 0x32 → RaisesIllegal w) ∧
  ∀ (s : State) (w : Word), s.pending = some w →
    (s.bv.len.toNat ≤ s.arg0.toNat → exec .bvAt s = .next (faulted s w 0x09)) ∧
    (s.arg0.toNat < s.bv.len.toNat → exec .bvAt s = .next
      { s with
        result := 0#31 ++ BitVec.ofBool ((Memory.read s.bv.ram (s.arg0.toNat / 8)).getLsbD (7 - s.arg0.toNat % 8))
        done := true
        pending := none })

/-- BV_BYTEAT: BV_RANGE if the first bit is not below BV_LEN; otherwise RESULT is the 8 bits from there on, first bit most
significant, 0 past the end, and nothing else changes; at a byte-aligned index it is that byte of the BV window (44_bitvector.md R214). -/
def Obligations.BvByteatReadsEightBits : Prop :=
  decode 0x33 = .ok .bvByteat ∧ (∀ w : Word, w &&& 0xFF = 0x33 → w ≠ 0x33 → RaisesIllegal w) ∧
  ∀ (s : State) (w : Word), s.pending = some w →
    (s.bv.len.toNat ≤ s.arg0.toNat → exec .bvByteat s = .next (faulted s w 0x09)) ∧
    (s.arg0.toNat < s.bv.len.toNat → ∃ v, exec .bvByteat s = .next { s with result := v, done := true, pending := none } ∧
      v.toNat < 256 ∧ (∀ k, k < 8 →
        v.getLsbD (7 - k) = (decide (s.arg0.toNat + k < s.bv.len.toNat) && s.bv.bit (s.arg0.toNat + k))) ∧
      ∀ j, s.arg0.toNat = 8 * j → v = 0#24 ++ (s.bv.window (j / 4)).extractLsb' (8 * (j % 4)) 8)

/-- ECC_INTERLEAVE: BAD_CONFIG, DATA_LENGTH, CW_OVERFLOW in the order of R220; otherwise CW holds the interleaved stream of R221 for
COUNT blocks of DATA data and TOTAL - DATA ECC codewords of G1, then of G2, over BV's bytes, byte q bits 8q to 8q + 7, and REMBITS zero
bits, CW_LEN their number; no byte of CW's memory past them, and nothing else, changes
(44_bitvector.md R222, R220, R221). The premise that CW's memory is in canonical form is part of the invariant. -/
def Obligations.EccInterleaveWritesTheStream : Prop :=
  decode 0x38 = .ok .eccInterleave ∧ (∀ w : Word, w &&& 0xFF = 0x38 → w ≠ 0x38 → RaisesIllegal w) ∧
  ∀ (s : State) (w : Word), s.pending = some w →
    (BadBlocks s → exec .eccInterleave s = .next (faulted s w 0x0B)) ∧
    (¬ BadBlocks s → s.bv.len.toNat ≠ 8 * dataCodewords s → exec .eccInterleave s = .next (faulted s w 0x0C)) ∧
    (¬ BadBlocks s → s.bv.len.toNat = 8 * dataCodewords s → 32768 < 8 * allCodewords s + s.rembits.toNat →
      exec .eccInterleave s = .next (faulted s w 0x0D)) ∧
    (¬ BadBlocks s → s.bv.len.toNat = 8 * dataCodewords s → 8 * allCodewords s + s.rembits.toNat ≤ 32768 →
      Memory.wf s.cw.ram → ∃ (c : BitRam) (bytes : List Byte), exec .eccInterleave s = .next { s with cw := c, done := true, pending := none } ∧
        c.len.toNat = 8 * allCodewords s + s.rembits.toNat ∧
        bytes.length = dataCodewords s ∧
        (∀ q k b, bytes[q]? = some b → k < 8 → b.getLsbD (7 - k) = s.bv.bit (8 * q + k)) ∧
        (∀ q, q < allCodewords s → some (Memory.read c.ram q) = (eccStream (groupShapes s.g1 ++ groupShapes s.g2) bytes)[q]?) ∧
        (∀ k, k < s.rembits.toNat → c.bit (8 * allCodewords s + k) = false) ∧
        ∀ a, c.len.toNat ≤ 8 * a → Memory.read c.ram a = Memory.read s.cw.ram a)

/-- The interleaved order: for blocks of any shapes, block b takes the next of the data codewords, and codeword j of block b stands after
every codeword of the columns before j and of the blocks before b in column j, blocks without a codeword in the column skipped; the
data codewords first, then the ECC codewords (44_bitvector.md R221). -/
def Obligations.InterleaveTakesColumns : Prop :=
  ∀ (shapes : List BlockShape) (bytes : List Byte), bytes.length = (shapes.map (·.data)).sum →
    (eccStream shapes bytes).length = (shapes.map (·.data)).sum + (shapes.map (·.ecc)).sum ∧
    ∀ b sh, shapes[b]? = some sh →
      (∀ j, j < sh.data → (eccStream shapes bytes)[columnPlace (shapes.map (·.data)) j b]? =
        bytes[((shapes.take b).map (·.data)).sum + j]?) ∧
      ∀ j, j < sh.ecc → (eccStream shapes bytes)[(shapes.map (·.data)).sum + columnPlace (shapes.map (·.ecc)) j b]? =
        (rsEcc ((bytes.drop ((shapes.take b).map (·.data)).sum).take sh.data) sh.ecc)[j]?

/-! ## The symbol -/

/-- GRID_CLEAR and GRID_STRUCT: BAD_CONFIG unless VERSION is in 1..40. Otherwise GRID_VER becomes VERSION; GRID_CLEAR leaves every
module light and unused, so that EMPTY is s² and SIZE s and s + 8; GRID_STRUCT draws the structural patterns of that version on such
a grid. Nothing else changes (45_symbol.md R241, R248). -/
def Obligations.GridClearAndStructStartAGrid : Prop :=
  decode 0x40 = .ok .gridClear ∧ (∀ w : Word, w &&& 0xFF = 0x40 → w ≠ 0x40 → RaisesIllegal w) ∧
  decode 0x41 = .ok .gridStruct ∧ (∀ w : Word, w &&& 0xFF = 0x41 → w ≠ 0x41 → RaisesIllegal w) ∧
  ∀ (s : State) (w : Word), s.pending = some w →
    (¬ IsVersion s.version → exec .gridClear s = .next (faulted s w 0x0B) ∧ exec .gridStruct s = .next (faulted s w 0x0B)) ∧
    (IsVersion s.version → ∃ g,
      exec .gridClear s = .next { s with gridVer := s.version, grid := g, done := true, pending := none } ∧
        (∀ x y, x < 177 → y < 177 → g.get x y = ⟨false, false⟩) ∧
        unusedModules { s with gridVer := s.version, grid := g } = sideOf s.version * sideOf s.version ∧
        (State.sizeWord { s with gridVer := s.version, grid := g }).toNat = sideOf s.version + 256 * (sideOf s.version + 8) ∧
        exec .gridStruct s = .next
          { s with gridVer := s.version, grid := g.draw (structPuts s.version), done := true, pending := none } ∧
        g.draw (structPuts s.version) = structGrid s.version)

/-- The structural drawing, module by module and whatever the order of its puts: finders, light separators, alignment patterns,
timing strips; every module of a pattern is used and every other module is blank (45_symbol.md R243, R244, R245, R246). -/
def Obligations.StructuralModulesHaveTheirValues : Prop :=
  ∀ v : BitVec 6, IsVersion v →
    (∀ fx fy dx dy, FinderCorner (sideOf v) fx fy → dx ≤ 6 → dy ≤ 6 →
      (structGrid v).get (fx + dx) (fy + dy) = ⟨finderValue dx dy, true⟩) ∧
    (∀ x y, SeparatorModule (sideOf v) x y → (structGrid v).get x y = ⟨false, true⟩) ∧
    (∀ cx cy x y, AlignmentCentre v cx cy → gap x cx ≤ 2 → gap y cy ≤ 2 →
      (structGrid v).get x y = ⟨decide (max (gap x cx) (gap y cy) ≠ 1), true⟩) ∧
    (∀ k, 8 ≤ k → k < sideOf v - 8 →
      (structGrid v).get k 6 = ⟨decide (k % 2 = 0), true⟩ ∧ (structGrid v).get 6 k = ⟨decide (k % 2 = 0), true⟩) ∧
    (∀ x y, ¬ StructuralModule v x y → (structGrid v).get x y = ⟨false, false⟩)

/-- GRID_META: BAD_MASK for m ≥ 8, then NO_GRID; otherwise the grid is drawn over for GRID_VER, LEVEL and m, and nothing else changes
(45_symbol.md R256). -/
def Obligations.GridMetaDrawsTheMetaInformation : Prop :=
  (∀ m, decode (zext m <<< 16 ||| 0x42) = .ok (.gridMeta m)) ∧
  (∀ w : Word, w &&& 0xFF = 0x42 → w &&& 0xFF00FF00 ≠ 0 → RaisesIllegal w) ∧
  ∀ (m : Byte) (s : State) (w : Word), s.pending = some w →
    (8 ≤ m.toNat → exec (.gridMeta m) s = .next (faulted s w 0x0E)) ∧
    (m.toNat < 8 → s.gridVer = 0 → exec (.gridMeta m) s = .next (faulted s w 0x10)) ∧
    (m.toNat < 8 → s.gridVer ≠ 0 → exec (.gridMeta m) s = .next
      { s with grid := s.grid.drawMeta s.gridVer s.level m.toNat, done := true, pending := none })

/-- The meta drawing, module by module: both copies of FMT(L, m) for the level bits 01, 00, 11, 10, the dark module, from version 7
on both copies of VER(v); every other module as before. So the format info can be read back from either copy
(45_symbol.md R250, R252, R254, R255). -/
def Obligations.MetaModulesHaveTheirValues : Prop :=
  ∀ (g : Grid) (v : BitVec 6) (level : BitVec 2) (m : Nat), IsVersion v → m < 8 →
    (∀ i, i < 15 →
      (g.drawMeta v level m).get (formatPosition1 i).1 (formatPosition1 i).2 =
        ⟨(formatInfo ([1, 0, 3, 2].getD level.toNat 0) m).testBit i, true⟩ ∧
      (g.drawMeta v level m).get (formatPosition2 (sideOf v) i).1 (formatPosition2 (sideOf v) i).2 =
        ⟨(formatInfo ([1, 0, 3, 2].getD level.toNat 0) m).testBit i, true⟩) ∧
    (g.drawMeta v level m).get 8 (sideOf v - 8) = ⟨true, true⟩ ∧
    (7 ≤ v.toNat → ∀ i, i < 18 →
      (g.drawMeta v level m).get (sideOf v - 11 + i % 3) (i / 3) = ⟨(versionInfo v).testBit i, true⟩ ∧
      (g.drawMeta v level m).get (i / 3) (sideOf v - 11 + i % 3) = ⟨(versionInfo v).testBit i, true⟩) ∧
    (∀ x y, ¬ MetaModule v x y → (g.drawMeta v level m).get x y = g.get x y)

/-- The format and version info are the BCH code words of the spec's formulas: the 5 bits level and mask followed by the remainder of
their multiple of x^10 by 0x537, masked with 0x5412; the version followed by the remainder of its multiple of x^12 by 0x1F25
(45_symbol.md R251, R253). -/
def Obligations.FormatAndVersionInfoAreBchCodewords : Prop :=
  (∀ l m, l < 4 → m < 8 → formatInfo l m = ((8 * l + m) * 1024 ||| bchRemainder 5 10 0x537 ((8 * l + m) * 1024)) ^^^ 0x5412) ∧
  (∀ v : BitVec 6, 7 ≤ v.toNat → v.toNat ≤ 40 → versionInfo v = v.toNat * 4096 ||| bchRemainder 6 12 0x1F25 (v.toNat * 4096)) ∧
  formatInfo 1 1 = 0x72F3 ∧ formatInfo 3 3 = 0x3A06 ∧ versionInfo 7 = 0x07C94 ∧ versionInfo 40 = 0x28C69

/-- DM(v) is the number of modules that the structural and the meta drawing leave unused, for every version, level and mask
(45_symbol.md R262). -/
def Obligations.DataModuleCounts : Prop :=
  ∀ (v : BitVec 6) (level : BitVec 2) (m : Nat), IsVersion v → m < 8 →
    unusedIn ((structGrid v).drawMeta v level m) (sideOf v) = dataModules v

/-- The placement order visits every unused module of the symbol once, but for those of column 6, which is in no pair, in the order
of the zig-zag: pairs right to left, the first upward and the next in the other direction, the right column first. For version 1 with
its patterns drawn it starts and ends as the rule says (45_symbol.md R258). -/
def Obligations.PlacementVisitsEachUnusedModuleOnce : Prop :=
  (∀ (g : Grid) (v : BitVec 6), IsVersion v →
    (g.placementOrder (sideOf v)).Nodup ∧
    (g.placementOrder (sideOf v)).Pairwise (fun p q => zigzagPlace (sideOf v) p < zigzagPlace (sideOf v) q) ∧
    ∀ x y, (x, y) ∈ g.placementOrder (sideOf v) ↔
      x < sideOf v ∧ y < sideOf v ∧ x ≠ 6 ∧ (g.get x y).used = false) ∧
  ∀ (level : BitVec 2) (m : Nat), m < 8 →
    let order := ((structGrid 1).drawMeta 1 level m).placementOrder 21
    order.take 4 = [(20, 20), (19, 20), (20, 19), (19, 19)] ∧ order.drop 204 = [(1, 11), (0, 11), (1, 12), (0, 12)]

/-- GRID_DATA: BAD_MASK, NO_GRID, CAPACITY in this order; otherwise the n-th module of the placement order takes bit n of CW,
inverted where mask m is on, and every other module and everything else stays; EMPTY is 0 afterwards if column 6 held no unused
module, which no column pair visits (45_symbol.md R261, R259, log 20). The eight mask conditions are spelled out, x the column and y the
row (R257). -/
def Obligations.GridDataPlacesTheStream : Prop :=
  (∀ x y, (maskOn 0 x y = true ↔ (y + x) % 2 = 0) ∧ (maskOn 1 x y = true ↔ y % 2 = 0) ∧ (maskOn 2 x y = true ↔ x % 3 = 0) ∧
    (maskOn 3 x y = true ↔ (y + x) % 3 = 0) ∧ (maskOn 4 x y = true ↔ (y / 2 + x / 3) % 2 = 0) ∧
    (maskOn 5 x y = true ↔ (y * x) % 2 + (y * x) % 3 = 0) ∧ (maskOn 6 x y = true ↔ ((y * x) % 2 + (y * x) % 3) % 2 = 0) ∧
    (maskOn 7 x y = true ↔ ((y + x) % 2 + (y * x) % 3) % 2 = 0)) ∧
  (∀ m, decode (zext m <<< 16 ||| 0x43) = .ok (.gridData m)) ∧
  (∀ w : Word, w &&& 0xFF = 0x43 → w &&& 0xFF00FF00 ≠ 0 → RaisesIllegal w) ∧
  ∀ (m : Byte) (s : State) (w : Word), s.pending = some w →
    (8 ≤ m.toNat → exec (.gridData m) s = .next (faulted s w 0x0E)) ∧
    (m.toNat < 8 → s.gridVer = 0 → exec (.gridData m) s = .next (faulted s w 0x10)) ∧
    (m.toNat < 8 → s.gridVer ≠ 0 → s.cw.len.toNat ≠ unusedModules s → exec (.gridData m) s = .next (faulted s w 0x0F)) ∧
    (m.toNat < 8 → s.gridVer ≠ 0 → s.gridVer.toNat ≤ 40 → s.cw.len.toNat = unusedModules s → ∃ g,
      exec (.gridData m) s = .next { s with grid := g, done := true, pending := none } ∧
        (∀ n p, (s.grid.placementOrder (sideOf s.gridVer))[n]? = some p →
          g.get p.1 p.2 = ⟨s.cw.bit n ^^ maskOn m.toNat p.1 p.2, true⟩) ∧
        (∀ x y, (x, y) ∉ s.grid.placementOrder (sideOf s.gridVer) → g.get x y = s.grid.get x y) ∧
        ((∀ y, y < sideOf s.gridVer → (s.grid.get 6 y).used = true) → unusedModules { s with grid := g } = 0))

/-- GRID_BUILD: BAD_MASK, BAD_CONFIG, CAPACITY in this order, all before the grid is cleared; otherwise the grid is the structural,
meta and data drawing for VERSION, LEVEL and m: module n of the placement order over the structural and meta drawing carries bit n of
CW, inverted where mask m is on, and every other module is that drawing's. Every module of the symbol is used, and nothing but GRID_VER
changes besides (45_symbol.md R263, R264). -/
def Obligations.GridBuildBuildsTheWholeSymbol : Prop :=
  (∀ m, decode (zext m <<< 16 ||| 0x44) = .ok (.gridBuild m)) ∧
  (∀ w : Word, w &&& 0xFF = 0x44 → w &&& 0xFF00FF00 ≠ 0 → RaisesIllegal w) ∧
  ∀ (m : Byte) (s : State) (w : Word), s.pending = some w →
    (8 ≤ m.toNat → exec (.gridBuild m) s = .next (faulted s w 0x0E)) ∧
    (m.toNat < 8 → ¬ IsVersion s.version → exec (.gridBuild m) s = .next (faulted s w 0x0B)) ∧
    (m.toNat < 8 → IsVersion s.version → s.cw.len.toNat ≠ dataModules s.version →
      exec (.gridBuild m) s = .next (faulted s w 0x0F)) ∧
    (m.toNat < 8 → IsVersion s.version → s.cw.len.toNat = dataModules s.version → ∃ g,
      exec (.gridBuild m) s = .next { s with gridVer := s.version, grid := g, done := true, pending := none } ∧
        g = builtGrid s.version s.level s.cw.bits m.toNat ∧
        g = ((structGrid s.version).drawMeta s.version s.level m.toNat).drawData (sideOf s.version) m.toNat s.cw.bits ∧
        (∀ n p, (((structGrid s.version).drawMeta s.version s.level m.toNat).placementOrder (sideOf s.version))[n]? = some p →
          g.get p.1 p.2 = ⟨s.cw.bit n ^^ maskOn m.toNat p.1 p.2, true⟩) ∧
        (∀ x y, (x, y) ∉ ((structGrid s.version).drawMeta s.version s.level m.toNat).placementOrder (sideOf s.version) →
          g.get x y = ((structGrid s.version).drawMeta s.version s.level m.toNat).get x y) ∧
        (∀ x y, x < sideOf s.version → y < sideOf s.version → (g.get x y).used = true) ∧
        unusedModules { s with gridVer := s.version, grid := g } = 0)

/-! ## The mask evaluator -/

/-- Penalty rule 1 is the sum, over the s rows and the s columns and over the maximal runs of length L ≥ 5 of each, of 3 + (L - 5)
(46_mask.md R280). -/
def Obligations.RunPenaltyCountsMaximalRuns : Prop :=
  (∀ line : List Bool, linePenalty1 line = runPenaltySum line) ∧
  ∀ (g : Grid) (s : Nat), g.penalty1 s =
    ((List.range s).map fun y => runPenaltySum ((List.range s).map fun x => (g.get x y).val)).sum +
      ((List.range s).map fun x => runPenaltySum ((List.range s).map fun y => (g.get x y).val)).sum

/-- Penalty rule 2 is 3 for every 2 × 2 window of one value, rule 3 is 40 for every match of the register scan of a row or a column, and
rule 4 is 10 for every whole 5 % step of the dark ratio's deviation from 50 % (46_mask.md R281, R282, R283). -/
def Obligations.BlockPatternAndRatioPenalties : Prop :=
  (∀ (g : Grid) (s : Nat), g.penalty2 s = 3 * ((Finset.range (s - 1) ×ˢ Finset.range (s - 1)).filter fun p =>
    (g.get p.1 p.2).val = (g.get (p.1 + 1) p.2).val ∧ (g.get p.1 p.2).val = (g.get p.1 (p.2 + 1)).val
      ∧ (g.get p.1 p.2).val = (g.get (p.1 + 1) (p.2 + 1)).val).card) ∧
  (∀ (g : Grid) (s : Nat), g.penalty3 s =
    40 * (((List.range s).map fun y => scanMatches ((List.range s).map fun x => (g.get x y).val)).sum +
      ((List.range s).map fun x => scanMatches ((List.range s).map fun y => (g.get x y).val)).sum)) ∧
  (∀ (g : Grid) (s : Nat), g.penalty4 s =
    10 * ((10 * (2 * (((Finset.range s ×ˢ Finset.range s).filter fun p => (g.get p.1 p.2).val = true).card : Int) - (s * s : Nat)).natAbs) / (s * s)))

/-- The penalties are bounded as the spec says, for every grid and every side up to 177, so that every SCORE register holds its value
exactly (46_mask.md R285). -/
def Obligations.ScoresFitTheirRegisters : Prop :=
  ∀ (g : Grid) (s : Nat), 1 ≤ s → s ≤ 177 →
    g.penalty1 s ≤ 61950 ∧ g.penalty2 s ≤ 92928 ∧ g.penalty3 s ≤ 2506320 ∧ g.penalty4 s ≤ 100 ∧
      (g.scores s).p1.toNat = g.penalty1 s ∧ (g.scores s).p2.toNat = g.penalty2 s ∧ (g.scores s).p3.toNat = g.penalty3 s ∧
      (g.scores s).p4.toNat = g.penalty4 s ∧
      (g.scores s).total.toNat = g.penalty1 s + g.penalty2 s + g.penalty3 s + g.penalty4 s ∧ (g.scores s).total.toNat < 2 ^ 22

/-- GRID_SCORE: BAD_MASK for a slot ≥ 8, then NO_GRID; otherwise slot m takes the four penalties of the grid as it is and their
sum, and no other slot and nothing else changes (46_mask.md R289). -/
def Obligations.GridScoreWritesOneSlot : Prop :=
  (∀ m, decode (zext m <<< 16 ||| 0x48) = .ok (.gridScore m)) ∧
  (∀ w : Word, w &&& 0xFF = 0x48 → w &&& 0xFF00FF00 ≠ 0 → RaisesIllegal w) ∧
  ∀ (m : Byte) (s : State) (w : Word), s.pending = some w →
    (8 ≤ m.toNat → exec (.gridScore m) s = .next (faulted s w 0x0E)) ∧
    (m.toNat < 8 → s.gridVer = 0 → exec (.gridScore m) s = .next (faulted s w 0x10)) ∧
    (m.toNat < 8 → s.gridVer ≠ 0 → s.gridVer.toNat ≤ 40 → ∃ sc : Vector Scores 8,
      exec (.gridScore m) s = .next { s with score := sc, done := true, pending := none } ∧
        (∀ k : Fin 8, k.val ≠ m.toNat → sc[k] = s.score[k]) ∧
        ∀ k : Fin 8, k.val = m.toNat →
          sc[k].p1.toNat = s.grid.penalty1 (sideOf s.gridVer) ∧ sc[k].p2.toNat = s.grid.penalty2 (sideOf s.gridVer) ∧
          sc[k].p3.toNat = s.grid.penalty3 (sideOf s.gridVer) ∧ sc[k].p4.toNat = s.grid.penalty4 (sideOf s.gridVer) ∧
          sc[k].total.toNat = sc[k].p1.toNat + sc[k].p2.toNat + sc[k].p3.toNat + sc[k].p4.toNat)

/-- MASK_SEARCH: BAD_CONFIG, then CAPACITY; otherwise all eight masks are built and scored, and the grid, BEST and BEST_PEN are those
of the least mask among the ones with the smallest total; GRID_VER becomes VERSION and nothing else changes (46_mask.md R291, R293). -/
def Obligations.MaskSearchKeepsTheBestMask : Prop :=
  decode 0x49 = .ok .maskSearch ∧ (∀ w : Word, w &&& 0xFF = 0x49 → w ≠ 0x49 → RaisesIllegal w) ∧
  ∀ (s : State) (w : Word), s.pending = some w →
    (¬ IsVersion s.version → exec .maskSearch s = .next (faulted s w 0x0B)) ∧
    (IsVersion s.version → s.cw.len.toNat ≠ dataModules s.version → exec .maskSearch s = .next (faulted s w 0x0F)) ∧
    (IsVersion s.version → s.cw.len.toNat = dataModules s.version → ∃ (sc : Vector Scores 8) (b : Fin 8),
      exec .maskSearch s = .next
        { s with
          score := sc
          grid := builtGrid s.version s.level s.cw.bits b.val
          gridVer := s.version
          bestValid := true
          bestMask := .ofFin b
          bestPen := sc[b].total
          done := true
          pending := none } ∧
        (∀ m : Fin 8, sc[m] = (builtGrid s.version s.level s.cw.bits m.val).scores (sideOf s.version)) ∧
        (∀ m : Fin 8, sc[b].total ≤ sc[m].total) ∧ ∀ m : Fin 8, m < b → sc[b].total < sc[m].total)

/-- A second MASK_SEARCH on the same inputs gives the same grid, scores and choice, and a GRID_SCORE of the final grid into any slot
gives that slot the score of the chosen mask (46_mask.md R293). -/
def Obligations.MaskSearchIsIdempotent : Prop :=
  ∀ (s t : State) (w w' : Word), IsVersion s.version → s.cw.len.toNat = dataModules s.version → exec .maskSearch s = .next t →
    exec .maskSearch { t with pending := some w, lastcmd := w, done := false } = .next { t with lastcmd := w } ∧
    ∀ (m : Byte) (b : Fin 8) (h : m.toNat < 8), t.bestMask = .ofFin b →
      exec (.gridScore m) { t with pending := some w', lastcmd := w', done := false } =
        .next { t with lastcmd := w', score := t.score.set m.toNat t.score[b] }
end

