-- ==== Sys2Proof/Laws/State.lean ====
section
/-! SUPPORT. One lemma per field per update of State, so that no later proof unfolds an update. -/

namespace Sys2Proof.Machine

/-! ## State.afterReset -/

@[simp] theorem State.afterReset_irqEn (d : Nat) : (State.afterReset d).irqEn = false := rfl
@[simp] theorem State.afterReset_done (d : Nat) : (State.afterReset d).done = false := rfl
@[simp] theorem State.afterReset_err (d : Nat) : (State.afterReset d).err = false := rfl
@[simp] theorem State.afterReset_errcode (d : Nat) : (State.afterReset d).errcode = 0 := rfl
@[simp] theorem State.afterReset_pending (d : Nat) : (State.afterReset d).pending = none := rfl
@[simp] theorem State.afterReset_lastcmd (d : Nat) : (State.afterReset d).lastcmd = 0 := rfl
@[simp] theorem State.afterReset_arg0 (d : Nat) : (State.afterReset d).arg0 = 0 := rfl
@[simp] theorem State.afterReset_result (d : Nat) : (State.afterReset d).result = 0 := rfl
@[simp] theorem State.afterReset_errinfo (d : Nat) : (State.afterReset d).errinfo = 0 := rfl
@[simp] theorem State.afterReset_bv (d : Nat) : (State.afterReset d).bv = .empty := rfl
@[simp] theorem State.afterReset_cw (d : Nat) : (State.afterReset d).cw = .empty := rfl
@[simp] theorem State.afterReset_version (d : Nat) : (State.afterReset d).version = 1 := rfl
@[simp] theorem State.afterReset_level (d : Nat) : (State.afterReset d).level = 0 := rfl
@[simp] theorem State.afterReset_g1 (d : Nat) : (State.afterReset d).g1 = .zero := rfl
@[simp] theorem State.afterReset_g2 (d : Nat) : (State.afterReset d).g2 = .zero := rfl
@[simp] theorem State.afterReset_rembits (d : Nat) : (State.afterReset d).rembits = 0 := rfl
@[simp] theorem State.afterReset_gridVer (d : Nat) : (State.afterReset d).gridVer = 0 := rfl
@[simp] theorem State.afterReset_grid (d : Nat) : (State.afterReset d).grid = .blank := rfl
@[simp] theorem State.afterReset_bestValid (d : Nat) : (State.afterReset d).bestValid = false := rfl
@[simp] theorem State.afterReset_bestMask (d : Nat) : (State.afterReset d).bestMask = 0 := rfl
@[simp] theorem State.afterReset_bestPen (d : Nat) : (State.afterReset d).bestPen = 0 := rfl
@[simp] theorem State.afterReset_score (d : Nat) : (State.afterReset d).score = .replicate 8 .zero := rfl
@[simp] theorem State.afterReset_turns (d : Nat) : (State.afterReset d).turns = [] := rfl
@[simp] theorem State.afterReset_rdata (d : Nat) : (State.afterReset d).rdata = 0 := rfl
@[simp] theorem State.afterReset_draws (d : Nat) : (State.afterReset d).draws = d + 1024 := rfl

@[simp] theorem State.afterReset_plen (d : Nat) (p : PReg) : (State.afterReset d).polys[p].len = 0 := by
  simp [State.afterReset]

@[simp] theorem State.afterReset_coeff (d : Nat) (p : PReg) (i : Fin 256) :
    (State.afterReset d).polys[p].c[i] = Config.freeCoeff (d + 256 * p + i) := by
  simp [State.afterReset]

/-! ## State.recordError -/

@[simp] theorem State.recordError_irqEn (s : State) (e : ErrCode) (w : Word) : (s.recordError e w).irqEn = s.irqEn := by
  unfold State.recordError; split <;> simp_all
@[simp] theorem State.recordError_done (s : State) (e : ErrCode) (w : Word) : (s.recordError e w).done = s.done := by
  unfold State.recordError; split <;> simp_all
@[simp] theorem State.recordError_err (s : State) (e : ErrCode) (w : Word) : (s.recordError e w).err = true := by
  unfold State.recordError; split <;> simp_all
@[simp] theorem State.recordError_errcode (s : State) (e : ErrCode) (w : Word) : (s.recordError e w).errcode = if s.err then s.errcode else e.code := by
  unfold State.recordError; split <;> simp_all
@[simp] theorem State.recordError_pending (s : State) (e : ErrCode) (w : Word) : (s.recordError e w).pending = s.pending := by
  unfold State.recordError; split <;> simp_all
@[simp] theorem State.recordError_lastcmd (s : State) (e : ErrCode) (w : Word) : (s.recordError e w).lastcmd = s.lastcmd := by
  unfold State.recordError; split <;> simp_all
@[simp] theorem State.recordError_arg0 (s : State) (e : ErrCode) (w : Word) : (s.recordError e w).arg0 = s.arg0 := by
  unfold State.recordError; split <;> simp_all
@[simp] theorem State.recordError_result (s : State) (e : ErrCode) (w : Word) : (s.recordError e w).result = s.result := by
  unfold State.recordError; split <;> simp_all
@[simp] theorem State.recordError_errinfo (s : State) (e : ErrCode) (w : Word) : (s.recordError e w).errinfo = if s.err then s.errinfo else w := by
  unfold State.recordError; split <;> simp_all
@[simp] theorem State.recordError_polys (s : State) (e : ErrCode) (w : Word) : (s.recordError e w).polys = s.polys := by
  unfold State.recordError; split <;> simp_all
@[simp] theorem State.recordError_bv (s : State) (e : ErrCode) (w : Word) : (s.recordError e w).bv = s.bv := by
  unfold State.recordError; split <;> simp_all
@[simp] theorem State.recordError_cw (s : State) (e : ErrCode) (w : Word) : (s.recordError e w).cw = s.cw := by
  unfold State.recordError; split <;> simp_all
@[simp] theorem State.recordError_version (s : State) (e : ErrCode) (w : Word) : (s.recordError e w).version = s.version := by
  unfold State.recordError; split <;> simp_all
@[simp] theorem State.recordError_level (s : State) (e : ErrCode) (w : Word) : (s.recordError e w).level = s.level := by
  unfold State.recordError; split <;> simp_all
@[simp] theorem State.recordError_g1 (s : State) (e : ErrCode) (w : Word) : (s.recordError e w).g1 = s.g1 := by
  unfold State.recordError; split <;> simp_all
@[simp] theorem State.recordError_g2 (s : State) (e : ErrCode) (w : Word) : (s.recordError e w).g2 = s.g2 := by
  unfold State.recordError; split <;> simp_all
@[simp] theorem State.recordError_rembits (s : State) (e : ErrCode) (w : Word) : (s.recordError e w).rembits = s.rembits := by
  unfold State.recordError; split <;> simp_all
@[simp] theorem State.recordError_gridVer (s : State) (e : ErrCode) (w : Word) : (s.recordError e w).gridVer = s.gridVer := by
  unfold State.recordError; split <;> simp_all
@[simp] theorem State.recordError_grid (s : State) (e : ErrCode) (w : Word) : (s.recordError e w).grid = s.grid := by
  unfold State.recordError; split <;> simp_all
@[simp] theorem State.recordError_bestValid (s : State) (e : ErrCode) (w : Word) : (s.recordError e w).bestValid = s.bestValid := by
  unfold State.recordError; split <;> simp_all
@[simp] theorem State.recordError_bestMask (s : State) (e : ErrCode) (w : Word) : (s.recordError e w).bestMask = s.bestMask := by
  unfold State.recordError; split <;> simp_all
@[simp] theorem State.recordError_bestPen (s : State) (e : ErrCode) (w : Word) : (s.recordError e w).bestPen = s.bestPen := by
  unfold State.recordError; split <;> simp_all
@[simp] theorem State.recordError_score (s : State) (e : ErrCode) (w : Word) : (s.recordError e w).score = s.score := by
  unfold State.recordError; split <;> simp_all
@[simp] theorem State.recordError_turns (s : State) (e : ErrCode) (w : Word) : (s.recordError e w).turns = s.turns := by
  unfold State.recordError; split <;> simp_all
@[simp] theorem State.recordError_rdata (s : State) (e : ErrCode) (w : Word) : (s.recordError e w).rdata = s.rdata := by
  unfold State.recordError; split <;> simp_all
@[simp] theorem State.recordError_draws (s : State) (e : ErrCode) (w : Word) : (s.recordError e w).draws = s.draws := by
  unfold State.recordError; split <;> simp_all

/-! ## State.raise -/

@[simp] theorem State.raise_irqEn (s : State) (e : ErrCode) : (s.raise e).irqEn = s.irqEn := by
  simp [State.raise]
@[simp] theorem State.raise_done (s : State) (e : ErrCode) : (s.raise e).done = s.done := by
  simp [State.raise]
@[simp] theorem State.raise_err (s : State) (e : ErrCode) : (s.raise e).err = true := by
  simp [State.raise]
@[simp] theorem State.raise_errcode (s : State) (e : ErrCode) : (s.raise e).errcode = if s.err then s.errcode else e.code := by
  simp [State.raise]
@[simp] theorem State.raise_pending (s : State) (e : ErrCode) : (s.raise e).pending = none := by
  simp [State.raise]
@[simp] theorem State.raise_lastcmd (s : State) (e : ErrCode) : (s.raise e).lastcmd = s.lastcmd := by
  simp [State.raise]
@[simp] theorem State.raise_arg0 (s : State) (e : ErrCode) : (s.raise e).arg0 = s.arg0 := by
  simp [State.raise]
@[simp] theorem State.raise_result (s : State) (e : ErrCode) : (s.raise e).result = s.result := by
  simp [State.raise]
@[simp] theorem State.raise_errinfo (s : State) (e : ErrCode) : (s.raise e).errinfo = if s.err then s.errinfo else s.commandWord := by
  simp [State.raise]
@[simp] theorem State.raise_polys (s : State) (e : ErrCode) : (s.raise e).polys = s.polys := by
  simp [State.raise]
@[simp] theorem State.raise_bv (s : State) (e : ErrCode) : (s.raise e).bv = s.bv := by
  simp [State.raise]
@[simp] theorem State.raise_cw (s : State) (e : ErrCode) : (s.raise e).cw = s.cw := by
  simp [State.raise]
@[simp] theorem State.raise_version (s : State) (e : ErrCode) : (s.raise e).version = s.version := by
  simp [State.raise]
@[simp] theorem State.raise_level (s : State) (e : ErrCode) : (s.raise e).level = s.level := by
  simp [State.raise]
@[simp] theorem State.raise_g1 (s : State) (e : ErrCode) : (s.raise e).g1 = s.g1 := by
  simp [State.raise]
@[simp] theorem State.raise_g2 (s : State) (e : ErrCode) : (s.raise e).g2 = s.g2 := by
  simp [State.raise]
@[simp] theorem State.raise_rembits (s : State) (e : ErrCode) : (s.raise e).rembits = s.rembits := by
  simp [State.raise]
@[simp] theorem State.raise_gridVer (s : State) (e : ErrCode) : (s.raise e).gridVer = s.gridVer := by
  simp [State.raise]
@[simp] theorem State.raise_grid (s : State) (e : ErrCode) : (s.raise e).grid = s.grid := by
  simp [State.raise]
@[simp] theorem State.raise_bestValid (s : State) (e : ErrCode) : (s.raise e).bestValid = s.bestValid := by
  simp [State.raise]
@[simp] theorem State.raise_bestMask (s : State) (e : ErrCode) : (s.raise e).bestMask = s.bestMask := by
  simp [State.raise]
@[simp] theorem State.raise_bestPen (s : State) (e : ErrCode) : (s.raise e).bestPen = s.bestPen := by
  simp [State.raise]
@[simp] theorem State.raise_score (s : State) (e : ErrCode) : (s.raise e).score = s.score := by
  simp [State.raise]
@[simp] theorem State.raise_turns (s : State) (e : ErrCode) : (s.raise e).turns = s.turns := by
  simp [State.raise]
@[simp] theorem State.raise_rdata (s : State) (e : ErrCode) : (s.raise e).rdata = s.rdata := by
  simp [State.raise]
@[simp] theorem State.raise_draws (s : State) (e : ErrCode) : (s.raise e).draws = s.draws := by
  simp [State.raise]

/-! ## State.complete -/

@[simp] theorem State.complete_irqEn (s : State) : (s.complete).irqEn = s.irqEn := rfl
@[simp] theorem State.complete_done (s : State) : (s.complete).done = true := rfl
@[simp] theorem State.complete_err (s : State) : (s.complete).err = s.err := rfl
@[simp] theorem State.complete_errcode (s : State) : (s.complete).errcode = s.errcode := rfl
@[simp] theorem State.complete_pending (s : State) : (s.complete).pending = none := rfl
@[simp] theorem State.complete_lastcmd (s : State) : (s.complete).lastcmd = s.lastcmd := rfl
@[simp] theorem State.complete_arg0 (s : State) : (s.complete).arg0 = s.arg0 := rfl
@[simp] theorem State.complete_result (s : State) : (s.complete).result = s.result := rfl
@[simp] theorem State.complete_errinfo (s : State) : (s.complete).errinfo = s.errinfo := rfl
@[simp] theorem State.complete_polys (s : State) : (s.complete).polys = s.polys := rfl
@[simp] theorem State.complete_bv (s : State) : (s.complete).bv = s.bv := rfl
@[simp] theorem State.complete_cw (s : State) : (s.complete).cw = s.cw := rfl
@[simp] theorem State.complete_version (s : State) : (s.complete).version = s.version := rfl
@[simp] theorem State.complete_level (s : State) : (s.complete).level = s.level := rfl
@[simp] theorem State.complete_g1 (s : State) : (s.complete).g1 = s.g1 := rfl
@[simp] theorem State.complete_g2 (s : State) : (s.complete).g2 = s.g2 := rfl
@[simp] theorem State.complete_rembits (s : State) : (s.complete).rembits = s.rembits := rfl
@[simp] theorem State.complete_gridVer (s : State) : (s.complete).gridVer = s.gridVer := rfl
@[simp] theorem State.complete_grid (s : State) : (s.complete).grid = s.grid := rfl
@[simp] theorem State.complete_bestValid (s : State) : (s.complete).bestValid = s.bestValid := rfl
@[simp] theorem State.complete_bestMask (s : State) : (s.complete).bestMask = s.bestMask := rfl
@[simp] theorem State.complete_bestPen (s : State) : (s.complete).bestPen = s.bestPen := rfl
@[simp] theorem State.complete_score (s : State) : (s.complete).score = s.score := rfl
@[simp] theorem State.complete_turns (s : State) : (s.complete).turns = s.turns := rfl
@[simp] theorem State.complete_rdata (s : State) : (s.complete).rdata = s.rdata := rfl
@[simp] theorem State.complete_draws (s : State) : (s.complete).draws = s.draws := rfl

/-! ## State.writeStatus -/

@[simp] theorem State.writeStatus_irqEn (s : State) (v : Word) : (s.writeStatus v).irqEn = s.irqEn := rfl
@[simp] theorem State.writeStatus_done (s : State) (v : Word) : (s.writeStatus v).done = (s.done && !v.getLsbD 1) := rfl
@[simp] theorem State.writeStatus_err (s : State) (v : Word) : (s.writeStatus v).err = (s.err && !v.getLsbD 2) := rfl
@[simp] theorem State.writeStatus_errcode (s : State) (v : Word) : (s.writeStatus v).errcode = if v.getLsbD 2 then 0 else s.errcode := rfl
@[simp] theorem State.writeStatus_pending (s : State) (v : Word) : (s.writeStatus v).pending = s.pending := rfl
@[simp] theorem State.writeStatus_lastcmd (s : State) (v : Word) : (s.writeStatus v).lastcmd = s.lastcmd := rfl
@[simp] theorem State.writeStatus_arg0 (s : State) (v : Word) : (s.writeStatus v).arg0 = s.arg0 := rfl
@[simp] theorem State.writeStatus_result (s : State) (v : Word) : (s.writeStatus v).result = s.result := rfl
@[simp] theorem State.writeStatus_errinfo (s : State) (v : Word) : (s.writeStatus v).errinfo = s.errinfo := rfl
@[simp] theorem State.writeStatus_polys (s : State) (v : Word) : (s.writeStatus v).polys = s.polys := rfl
@[simp] theorem State.writeStatus_bv (s : State) (v : Word) : (s.writeStatus v).bv = s.bv := rfl
@[simp] theorem State.writeStatus_cw (s : State) (v : Word) : (s.writeStatus v).cw = s.cw := rfl
@[simp] theorem State.writeStatus_version (s : State) (v : Word) : (s.writeStatus v).version = s.version := rfl
@[simp] theorem State.writeStatus_level (s : State) (v : Word) : (s.writeStatus v).level = s.level := rfl
@[simp] theorem State.writeStatus_g1 (s : State) (v : Word) : (s.writeStatus v).g1 = s.g1 := rfl
@[simp] theorem State.writeStatus_g2 (s : State) (v : Word) : (s.writeStatus v).g2 = s.g2 := rfl
@[simp] theorem State.writeStatus_rembits (s : State) (v : Word) : (s.writeStatus v).rembits = s.rembits := rfl
@[simp] theorem State.writeStatus_gridVer (s : State) (v : Word) : (s.writeStatus v).gridVer = s.gridVer := rfl
@[simp] theorem State.writeStatus_grid (s : State) (v : Word) : (s.writeStatus v).grid = s.grid := rfl
@[simp] theorem State.writeStatus_bestValid (s : State) (v : Word) : (s.writeStatus v).bestValid = s.bestValid := rfl
@[simp] theorem State.writeStatus_bestMask (s : State) (v : Word) : (s.writeStatus v).bestMask = s.bestMask := rfl
@[simp] theorem State.writeStatus_bestPen (s : State) (v : Word) : (s.writeStatus v).bestPen = s.bestPen := rfl
@[simp] theorem State.writeStatus_score (s : State) (v : Word) : (s.writeStatus v).score = s.score := rfl
@[simp] theorem State.writeStatus_turns (s : State) (v : Word) : (s.writeStatus v).turns = s.turns := rfl
@[simp] theorem State.writeStatus_rdata (s : State) (v : Word) : (s.writeStatus v).rdata = s.rdata := rfl
@[simp] theorem State.writeStatus_draws (s : State) (v : Word) : (s.writeStatus v).draws = s.draws := rfl

/-! ## State.resetCore -/

@[simp] theorem State.resetCore_irqEn (s : State) : (s.resetCore).irqEn = (State.afterReset s.draws).irqEn := rfl
@[simp] theorem State.resetCore_done (s : State) : (s.resetCore).done = (State.afterReset s.draws).done := rfl
@[simp] theorem State.resetCore_err (s : State) : (s.resetCore).err = (State.afterReset s.draws).err := rfl
@[simp] theorem State.resetCore_errcode (s : State) : (s.resetCore).errcode = (State.afterReset s.draws).errcode := rfl
@[simp] theorem State.resetCore_pending (s : State) : (s.resetCore).pending = (State.afterReset s.draws).pending := rfl
@[simp] theorem State.resetCore_lastcmd (s : State) : (s.resetCore).lastcmd = (State.afterReset s.draws).lastcmd := rfl
@[simp] theorem State.resetCore_arg0 (s : State) : (s.resetCore).arg0 = (State.afterReset s.draws).arg0 := rfl
@[simp] theorem State.resetCore_result (s : State) : (s.resetCore).result = (State.afterReset s.draws).result := rfl
@[simp] theorem State.resetCore_errinfo (s : State) : (s.resetCore).errinfo = (State.afterReset s.draws).errinfo := rfl
@[simp] theorem State.resetCore_polys (s : State) : (s.resetCore).polys = (State.afterReset s.draws).polys := rfl
@[simp] theorem State.resetCore_bv (s : State) : (s.resetCore).bv = (State.afterReset s.draws).bv := rfl
@[simp] theorem State.resetCore_cw (s : State) : (s.resetCore).cw = (State.afterReset s.draws).cw := rfl
@[simp] theorem State.resetCore_version (s : State) : (s.resetCore).version = (State.afterReset s.draws).version := rfl
@[simp] theorem State.resetCore_level (s : State) : (s.resetCore).level = (State.afterReset s.draws).level := rfl
@[simp] theorem State.resetCore_g1 (s : State) : (s.resetCore).g1 = (State.afterReset s.draws).g1 := rfl
@[simp] theorem State.resetCore_g2 (s : State) : (s.resetCore).g2 = (State.afterReset s.draws).g2 := rfl
@[simp] theorem State.resetCore_rembits (s : State) : (s.resetCore).rembits = (State.afterReset s.draws).rembits := rfl
@[simp] theorem State.resetCore_gridVer (s : State) : (s.resetCore).gridVer = (State.afterReset s.draws).gridVer := rfl
@[simp] theorem State.resetCore_grid (s : State) : (s.resetCore).grid = (State.afterReset s.draws).grid := rfl
@[simp] theorem State.resetCore_bestValid (s : State) : (s.resetCore).bestValid = (State.afterReset s.draws).bestValid := rfl
@[simp] theorem State.resetCore_bestMask (s : State) : (s.resetCore).bestMask = (State.afterReset s.draws).bestMask := rfl
@[simp] theorem State.resetCore_bestPen (s : State) : (s.resetCore).bestPen = (State.afterReset s.draws).bestPen := rfl
@[simp] theorem State.resetCore_score (s : State) : (s.resetCore).score = (State.afterReset s.draws).score := rfl
@[simp] theorem State.resetCore_turns (s : State) : (s.resetCore).turns = s.turns := rfl
@[simp] theorem State.resetCore_rdata (s : State) : (s.resetCore).rdata = s.rdata := rfl
@[simp] theorem State.resetCore_draws (s : State) : (s.resetCore).draws = s.draws + 1024 := rfl

/-! ## State.writePoly -/

@[simp] theorem State.writePoly_irqEn (s : State) (d : PReg) (r : Poly) : (s.writePoly d r).irqEn = s.irqEn := rfl
@[simp] theorem State.writePoly_done (s : State) (d : PReg) (r : Poly) : (s.writePoly d r).done = s.done := rfl
@[simp] theorem State.writePoly_err (s : State) (d : PReg) (r : Poly) : (s.writePoly d r).err = s.err := rfl
@[simp] theorem State.writePoly_errcode (s : State) (d : PReg) (r : Poly) : (s.writePoly d r).errcode = s.errcode := rfl
@[simp] theorem State.writePoly_pending (s : State) (d : PReg) (r : Poly) : (s.writePoly d r).pending = s.pending := rfl
@[simp] theorem State.writePoly_lastcmd (s : State) (d : PReg) (r : Poly) : (s.writePoly d r).lastcmd = s.lastcmd := rfl
@[simp] theorem State.writePoly_arg0 (s : State) (d : PReg) (r : Poly) : (s.writePoly d r).arg0 = s.arg0 := rfl
@[simp] theorem State.writePoly_result (s : State) (d : PReg) (r : Poly) : (s.writePoly d r).result = s.result := rfl
@[simp] theorem State.writePoly_errinfo (s : State) (d : PReg) (r : Poly) : (s.writePoly d r).errinfo = s.errinfo := rfl
@[simp] theorem State.writePoly_polys (s : State) (d : PReg) (r : Poly) : (s.writePoly d r).polys = s.polys.set d (.ofPoly r) := rfl
@[simp] theorem State.writePoly_bv (s : State) (d : PReg) (r : Poly) : (s.writePoly d r).bv = s.bv := rfl
@[simp] theorem State.writePoly_cw (s : State) (d : PReg) (r : Poly) : (s.writePoly d r).cw = s.cw := rfl
@[simp] theorem State.writePoly_version (s : State) (d : PReg) (r : Poly) : (s.writePoly d r).version = s.version := rfl
@[simp] theorem State.writePoly_level (s : State) (d : PReg) (r : Poly) : (s.writePoly d r).level = s.level := rfl
@[simp] theorem State.writePoly_g1 (s : State) (d : PReg) (r : Poly) : (s.writePoly d r).g1 = s.g1 := rfl
@[simp] theorem State.writePoly_g2 (s : State) (d : PReg) (r : Poly) : (s.writePoly d r).g2 = s.g2 := rfl
@[simp] theorem State.writePoly_rembits (s : State) (d : PReg) (r : Poly) : (s.writePoly d r).rembits = s.rembits := rfl
@[simp] theorem State.writePoly_gridVer (s : State) (d : PReg) (r : Poly) : (s.writePoly d r).gridVer = s.gridVer := rfl
@[simp] theorem State.writePoly_grid (s : State) (d : PReg) (r : Poly) : (s.writePoly d r).grid = s.grid := rfl
@[simp] theorem State.writePoly_bestValid (s : State) (d : PReg) (r : Poly) : (s.writePoly d r).bestValid = s.bestValid := rfl
@[simp] theorem State.writePoly_bestMask (s : State) (d : PReg) (r : Poly) : (s.writePoly d r).bestMask = s.bestMask := rfl
@[simp] theorem State.writePoly_bestPen (s : State) (d : PReg) (r : Poly) : (s.writePoly d r).bestPen = s.bestPen := rfl
@[simp] theorem State.writePoly_score (s : State) (d : PReg) (r : Poly) : (s.writePoly d r).score = s.score := rfl
@[simp] theorem State.writePoly_turns (s : State) (d : PReg) (r : Poly) : (s.writePoly d r).turns = s.turns := rfl
@[simp] theorem State.writePoly_rdata (s : State) (d : PReg) (r : Poly) : (s.writePoly d r).rdata = s.rdata := rfl
@[simp] theorem State.writePoly_draws (s : State) (d : PReg) (r : Poly) : (s.writePoly d r).draws = s.draws := rfl

/-! ## State.writeResult -/

@[simp] theorem State.writeResult_irqEn (s : State) {n : Nat} (v : BitVec n) : (s.writeResult v).irqEn = s.irqEn := rfl
@[simp] theorem State.writeResult_done (s : State) {n : Nat} (v : BitVec n) : (s.writeResult v).done = s.done := rfl
@[simp] theorem State.writeResult_err (s : State) {n : Nat} (v : BitVec n) : (s.writeResult v).err = s.err := rfl
@[simp] theorem State.writeResult_errcode (s : State) {n : Nat} (v : BitVec n) : (s.writeResult v).errcode = s.errcode := rfl
@[simp] theorem State.writeResult_pending (s : State) {n : Nat} (v : BitVec n) : (s.writeResult v).pending = s.pending := rfl
@[simp] theorem State.writeResult_lastcmd (s : State) {n : Nat} (v : BitVec n) : (s.writeResult v).lastcmd = s.lastcmd := rfl
@[simp] theorem State.writeResult_arg0 (s : State) {n : Nat} (v : BitVec n) : (s.writeResult v).arg0 = s.arg0 := rfl
@[simp] theorem State.writeResult_result (s : State) {n : Nat} (v : BitVec n) : (s.writeResult v).result = zext v := rfl
@[simp] theorem State.writeResult_errinfo (s : State) {n : Nat} (v : BitVec n) : (s.writeResult v).errinfo = s.errinfo := rfl
@[simp] theorem State.writeResult_polys (s : State) {n : Nat} (v : BitVec n) : (s.writeResult v).polys = s.polys := rfl
@[simp] theorem State.writeResult_bv (s : State) {n : Nat} (v : BitVec n) : (s.writeResult v).bv = s.bv := rfl
@[simp] theorem State.writeResult_cw (s : State) {n : Nat} (v : BitVec n) : (s.writeResult v).cw = s.cw := rfl
@[simp] theorem State.writeResult_version (s : State) {n : Nat} (v : BitVec n) : (s.writeResult v).version = s.version := rfl
@[simp] theorem State.writeResult_level (s : State) {n : Nat} (v : BitVec n) : (s.writeResult v).level = s.level := rfl
@[simp] theorem State.writeResult_g1 (s : State) {n : Nat} (v : BitVec n) : (s.writeResult v).g1 = s.g1 := rfl
@[simp] theorem State.writeResult_g2 (s : State) {n : Nat} (v : BitVec n) : (s.writeResult v).g2 = s.g2 := rfl
@[simp] theorem State.writeResult_rembits (s : State) {n : Nat} (v : BitVec n) : (s.writeResult v).rembits = s.rembits := rfl
@[simp] theorem State.writeResult_gridVer (s : State) {n : Nat} (v : BitVec n) : (s.writeResult v).gridVer = s.gridVer := rfl
@[simp] theorem State.writeResult_grid (s : State) {n : Nat} (v : BitVec n) : (s.writeResult v).grid = s.grid := rfl
@[simp] theorem State.writeResult_bestValid (s : State) {n : Nat} (v : BitVec n) : (s.writeResult v).bestValid = s.bestValid := rfl
@[simp] theorem State.writeResult_bestMask (s : State) {n : Nat} (v : BitVec n) : (s.writeResult v).bestMask = s.bestMask := rfl
@[simp] theorem State.writeResult_bestPen (s : State) {n : Nat} (v : BitVec n) : (s.writeResult v).bestPen = s.bestPen := rfl
@[simp] theorem State.writeResult_score (s : State) {n : Nat} (v : BitVec n) : (s.writeResult v).score = s.score := rfl
@[simp] theorem State.writeResult_turns (s : State) {n : Nat} (v : BitVec n) : (s.writeResult v).turns = s.turns := rfl
@[simp] theorem State.writeResult_rdata (s : State) {n : Nat} (v : BitVec n) : (s.writeResult v).rdata = s.rdata := rfl
@[simp] theorem State.writeResult_draws (s : State) {n : Nat} (v : BitVec n) : (s.writeResult v).draws = s.draws := rfl

/-! ## State.offerCommand -/

@[simp] theorem State.offerCommand_irqEn (s : State) (w : Word) : (s.offerCommand w).irqEn = s.irqEn := by
  unfold State.offerCommand; split <;> simp_all
@[simp] theorem State.offerCommand_done (s : State) (w : Word) : (s.offerCommand w).done = (s.done && s.err) := by
  unfold State.offerCommand; split <;> simp_all
@[simp] theorem State.offerCommand_err (s : State) (w : Word) : (s.offerCommand w).err = s.err := by
  unfold State.offerCommand; split <;> simp_all
@[simp] theorem State.offerCommand_errcode (s : State) (w : Word) : (s.offerCommand w).errcode = s.errcode := by
  unfold State.offerCommand; split <;> simp_all
@[simp] theorem State.offerCommand_pending (s : State) (w : Word) : (s.offerCommand w).pending = if s.err then s.pending else some w := by
  unfold State.offerCommand; split <;> simp_all
@[simp] theorem State.offerCommand_lastcmd (s : State) (w : Word) : (s.offerCommand w).lastcmd = if s.err then s.lastcmd else w := by
  unfold State.offerCommand; split <;> simp_all
@[simp] theorem State.offerCommand_arg0 (s : State) (w : Word) : (s.offerCommand w).arg0 = s.arg0 := by
  unfold State.offerCommand; split <;> simp_all
@[simp] theorem State.offerCommand_result (s : State) (w : Word) : (s.offerCommand w).result = s.result := by
  unfold State.offerCommand; split <;> simp_all
@[simp] theorem State.offerCommand_errinfo (s : State) (w : Word) : (s.offerCommand w).errinfo = s.errinfo := by
  unfold State.offerCommand; split <;> simp_all
@[simp] theorem State.offerCommand_polys (s : State) (w : Word) : (s.offerCommand w).polys = s.polys := by
  unfold State.offerCommand; split <;> simp_all
@[simp] theorem State.offerCommand_bv (s : State) (w : Word) : (s.offerCommand w).bv = s.bv := by
  unfold State.offerCommand; split <;> simp_all
@[simp] theorem State.offerCommand_cw (s : State) (w : Word) : (s.offerCommand w).cw = s.cw := by
  unfold State.offerCommand; split <;> simp_all
@[simp] theorem State.offerCommand_version (s : State) (w : Word) : (s.offerCommand w).version = s.version := by
  unfold State.offerCommand; split <;> simp_all
@[simp] theorem State.offerCommand_level (s : State) (w : Word) : (s.offerCommand w).level = s.level := by
  unfold State.offerCommand; split <;> simp_all
@[simp] theorem State.offerCommand_g1 (s : State) (w : Word) : (s.offerCommand w).g1 = s.g1 := by
  unfold State.offerCommand; split <;> simp_all
@[simp] theorem State.offerCommand_g2 (s : State) (w : Word) : (s.offerCommand w).g2 = s.g2 := by
  unfold State.offerCommand; split <;> simp_all
@[simp] theorem State.offerCommand_rembits (s : State) (w : Word) : (s.offerCommand w).rembits = s.rembits := by
  unfold State.offerCommand; split <;> simp_all
@[simp] theorem State.offerCommand_gridVer (s : State) (w : Word) : (s.offerCommand w).gridVer = s.gridVer := by
  unfold State.offerCommand; split <;> simp_all
@[simp] theorem State.offerCommand_grid (s : State) (w : Word) : (s.offerCommand w).grid = s.grid := by
  unfold State.offerCommand; split <;> simp_all
@[simp] theorem State.offerCommand_bestValid (s : State) (w : Word) : (s.offerCommand w).bestValid = s.bestValid := by
  unfold State.offerCommand; split <;> simp_all
@[simp] theorem State.offerCommand_bestMask (s : State) (w : Word) : (s.offerCommand w).bestMask = s.bestMask := by
  unfold State.offerCommand; split <;> simp_all
@[simp] theorem State.offerCommand_bestPen (s : State) (w : Word) : (s.offerCommand w).bestPen = s.bestPen := by
  unfold State.offerCommand; split <;> simp_all
@[simp] theorem State.offerCommand_score (s : State) (w : Word) : (s.offerCommand w).score = s.score := by
  unfold State.offerCommand; split <;> simp_all
@[simp] theorem State.offerCommand_turns (s : State) (w : Word) : (s.offerCommand w).turns = s.turns := by
  unfold State.offerCommand; split <;> simp_all
@[simp] theorem State.offerCommand_rdata (s : State) (w : Word) : (s.offerCommand w).rdata = s.rdata := by
  unfold State.offerCommand; split <;> simp_all
@[simp] theorem State.offerCommand_draws (s : State) (w : Word) : (s.offerCommand w).draws = s.draws := by
  unfold State.offerCommand; split <;> simp_all

/-! ## State.refuseWrite -/

@[simp] theorem State.refuseWrite_irqEn (s : State) (off : BitVec 20) : (s.refuseWrite off).irqEn = s.irqEn := by
  simp [State.refuseWrite]
@[simp] theorem State.refuseWrite_done (s : State) (off : BitVec 20) : (s.refuseWrite off).done = s.done := by
  simp [State.refuseWrite]
@[simp] theorem State.refuseWrite_err (s : State) (off : BitVec 20) : (s.refuseWrite off).err = true := by
  simp [State.refuseWrite]
@[simp] theorem State.refuseWrite_errcode (s : State) (off : BitVec 20) : (s.refuseWrite off).errcode = if s.err then s.errcode else 2 := by
  simp [State.refuseWrite, ErrCode.code]
@[simp] theorem State.refuseWrite_pending (s : State) (off : BitVec 20) : (s.refuseWrite off).pending = s.pending := by
  simp [State.refuseWrite]
@[simp] theorem State.refuseWrite_lastcmd (s : State) (off : BitVec 20) : (s.refuseWrite off).lastcmd = s.lastcmd := by
  simp [State.refuseWrite]
@[simp] theorem State.refuseWrite_arg0 (s : State) (off : BitVec 20) : (s.refuseWrite off).arg0 = s.arg0 := by
  simp [State.refuseWrite]
@[simp] theorem State.refuseWrite_result (s : State) (off : BitVec 20) : (s.refuseWrite off).result = s.result := by
  simp [State.refuseWrite]
@[simp] theorem State.refuseWrite_errinfo (s : State) (off : BitVec 20) : (s.refuseWrite off).errinfo = if s.err then s.errinfo else zext off := by
  simp [State.refuseWrite]
@[simp] theorem State.refuseWrite_polys (s : State) (off : BitVec 20) : (s.refuseWrite off).polys = s.polys := by
  simp [State.refuseWrite]
@[simp] theorem State.refuseWrite_bv (s : State) (off : BitVec 20) : (s.refuseWrite off).bv = s.bv := by
  simp [State.refuseWrite]
@[simp] theorem State.refuseWrite_cw (s : State) (off : BitVec 20) : (s.refuseWrite off).cw = s.cw := by
  simp [State.refuseWrite]
@[simp] theorem State.refuseWrite_version (s : State) (off : BitVec 20) : (s.refuseWrite off).version = s.version := by
  simp [State.refuseWrite]
@[simp] theorem State.refuseWrite_level (s : State) (off : BitVec 20) : (s.refuseWrite off).level = s.level := by
  simp [State.refuseWrite]
@[simp] theorem State.refuseWrite_g1 (s : State) (off : BitVec 20) : (s.refuseWrite off).g1 = s.g1 := by
  simp [State.refuseWrite]
@[simp] theorem State.refuseWrite_g2 (s : State) (off : BitVec 20) : (s.refuseWrite off).g2 = s.g2 := by
  simp [State.refuseWrite]
@[simp] theorem State.refuseWrite_rembits (s : State) (off : BitVec 20) : (s.refuseWrite off).rembits = s.rembits := by
  simp [State.refuseWrite]
@[simp] theorem State.refuseWrite_gridVer (s : State) (off : BitVec 20) : (s.refuseWrite off).gridVer = s.gridVer := by
  simp [State.refuseWrite]
@[simp] theorem State.refuseWrite_grid (s : State) (off : BitVec 20) : (s.refuseWrite off).grid = s.grid := by
  simp [State.refuseWrite]
@[simp] theorem State.refuseWrite_bestValid (s : State) (off : BitVec 20) : (s.refuseWrite off).bestValid = s.bestValid := by
  simp [State.refuseWrite]
@[simp] theorem State.refuseWrite_bestMask (s : State) (off : BitVec 20) : (s.refuseWrite off).bestMask = s.bestMask := by
  simp [State.refuseWrite]
@[simp] theorem State.refuseWrite_bestPen (s : State) (off : BitVec 20) : (s.refuseWrite off).bestPen = s.bestPen := by
  simp [State.refuseWrite]
@[simp] theorem State.refuseWrite_score (s : State) (off : BitVec 20) : (s.refuseWrite off).score = s.score := by
  simp [State.refuseWrite]
@[simp] theorem State.refuseWrite_turns (s : State) (off : BitVec 20) : (s.refuseWrite off).turns = s.turns := by
  simp [State.refuseWrite]
@[simp] theorem State.refuseWrite_rdata (s : State) (off : BitVec 20) : (s.refuseWrite off).rdata = s.rdata := by
  simp [State.refuseWrite]
@[simp] theorem State.refuseWrite_draws (s : State) (off : BitVec 20) : (s.refuseWrite off).draws = s.draws := by
  simp [State.refuseWrite]

/-! ## State.writeCoeff -/

@[simp] theorem State.writeCoeff_irqEn (s : State) (p : PReg) (i : Fin 256) (v : Word) : (s.writeCoeff p i v).irqEn = s.irqEn := rfl
@[simp] theorem State.writeCoeff_done (s : State) (p : PReg) (i : Fin 256) (v : Word) : (s.writeCoeff p i v).done = s.done := rfl
@[simp] theorem State.writeCoeff_err (s : State) (p : PReg) (i : Fin 256) (v : Word) : (s.writeCoeff p i v).err = s.err := rfl
@[simp] theorem State.writeCoeff_errcode (s : State) (p : PReg) (i : Fin 256) (v : Word) : (s.writeCoeff p i v).errcode = s.errcode := rfl
@[simp] theorem State.writeCoeff_pending (s : State) (p : PReg) (i : Fin 256) (v : Word) : (s.writeCoeff p i v).pending = s.pending := rfl
@[simp] theorem State.writeCoeff_lastcmd (s : State) (p : PReg) (i : Fin 256) (v : Word) : (s.writeCoeff p i v).lastcmd = s.lastcmd := rfl
@[simp] theorem State.writeCoeff_arg0 (s : State) (p : PReg) (i : Fin 256) (v : Word) : (s.writeCoeff p i v).arg0 = s.arg0 := rfl
@[simp] theorem State.writeCoeff_result (s : State) (p : PReg) (i : Fin 256) (v : Word) : (s.writeCoeff p i v).result = s.result := rfl
@[simp] theorem State.writeCoeff_errinfo (s : State) (p : PReg) (i : Fin 256) (v : Word) : (s.writeCoeff p i v).errinfo = s.errinfo := rfl
@[simp] theorem State.writeCoeff_polys (s : State) (p : PReg) (i : Fin 256) (v : Word) : (s.writeCoeff p i v).polys = s.polys.set p { s.polys[p] with c := s.polys[p].c.set i (v.extractLsb' 0 8) } := rfl
@[simp] theorem State.writeCoeff_bv (s : State) (p : PReg) (i : Fin 256) (v : Word) : (s.writeCoeff p i v).bv = s.bv := rfl
@[simp] theorem State.writeCoeff_cw (s : State) (p : PReg) (i : Fin 256) (v : Word) : (s.writeCoeff p i v).cw = s.cw := rfl
@[simp] theorem State.writeCoeff_version (s : State) (p : PReg) (i : Fin 256) (v : Word) : (s.writeCoeff p i v).version = s.version := rfl
@[simp] theorem State.writeCoeff_level (s : State) (p : PReg) (i : Fin 256) (v : Word) : (s.writeCoeff p i v).level = s.level := rfl
@[simp] theorem State.writeCoeff_g1 (s : State) (p : PReg) (i : Fin 256) (v : Word) : (s.writeCoeff p i v).g1 = s.g1 := rfl
@[simp] theorem State.writeCoeff_g2 (s : State) (p : PReg) (i : Fin 256) (v : Word) : (s.writeCoeff p i v).g2 = s.g2 := rfl
@[simp] theorem State.writeCoeff_rembits (s : State) (p : PReg) (i : Fin 256) (v : Word) : (s.writeCoeff p i v).rembits = s.rembits := rfl
@[simp] theorem State.writeCoeff_gridVer (s : State) (p : PReg) (i : Fin 256) (v : Word) : (s.writeCoeff p i v).gridVer = s.gridVer := rfl
@[simp] theorem State.writeCoeff_grid (s : State) (p : PReg) (i : Fin 256) (v : Word) : (s.writeCoeff p i v).grid = s.grid := rfl
@[simp] theorem State.writeCoeff_bestValid (s : State) (p : PReg) (i : Fin 256) (v : Word) : (s.writeCoeff p i v).bestValid = s.bestValid := rfl
@[simp] theorem State.writeCoeff_bestMask (s : State) (p : PReg) (i : Fin 256) (v : Word) : (s.writeCoeff p i v).bestMask = s.bestMask := rfl
@[simp] theorem State.writeCoeff_bestPen (s : State) (p : PReg) (i : Fin 256) (v : Word) : (s.writeCoeff p i v).bestPen = s.bestPen := rfl
@[simp] theorem State.writeCoeff_score (s : State) (p : PReg) (i : Fin 256) (v : Word) : (s.writeCoeff p i v).score = s.score := rfl
@[simp] theorem State.writeCoeff_turns (s : State) (p : PReg) (i : Fin 256) (v : Word) : (s.writeCoeff p i v).turns = s.turns := rfl
@[simp] theorem State.writeCoeff_rdata (s : State) (p : PReg) (i : Fin 256) (v : Word) : (s.writeCoeff p i v).rdata = s.rdata := rfl
@[simp] theorem State.writeCoeff_draws (s : State) (p : PReg) (i : Fin 256) (v : Word) : (s.writeCoeff p i v).draws = s.draws := rfl

/-! ## State.writePlen -/

@[simp] theorem State.writePlen_irqEn (s : State) (p : PReg) (v : Word) : (s.writePlen p v).irqEn = s.irqEn := rfl
@[simp] theorem State.writePlen_done (s : State) (p : PReg) (v : Word) : (s.writePlen p v).done = s.done := rfl
@[simp] theorem State.writePlen_err (s : State) (p : PReg) (v : Word) : (s.writePlen p v).err = s.err := rfl
@[simp] theorem State.writePlen_errcode (s : State) (p : PReg) (v : Word) : (s.writePlen p v).errcode = s.errcode := rfl
@[simp] theorem State.writePlen_pending (s : State) (p : PReg) (v : Word) : (s.writePlen p v).pending = s.pending := rfl
@[simp] theorem State.writePlen_lastcmd (s : State) (p : PReg) (v : Word) : (s.writePlen p v).lastcmd = s.lastcmd := rfl
@[simp] theorem State.writePlen_arg0 (s : State) (p : PReg) (v : Word) : (s.writePlen p v).arg0 = s.arg0 := rfl
@[simp] theorem State.writePlen_result (s : State) (p : PReg) (v : Word) : (s.writePlen p v).result = s.result := rfl
@[simp] theorem State.writePlen_errinfo (s : State) (p : PReg) (v : Word) : (s.writePlen p v).errinfo = s.errinfo := rfl
@[simp] theorem State.writePlen_polys (s : State) (p : PReg) (v : Word) : (s.writePlen p v).polys = s.polys.set p { s.polys[p] with len := v.extractLsb' 0 9 } := rfl
@[simp] theorem State.writePlen_bv (s : State) (p : PReg) (v : Word) : (s.writePlen p v).bv = s.bv := rfl
@[simp] theorem State.writePlen_cw (s : State) (p : PReg) (v : Word) : (s.writePlen p v).cw = s.cw := rfl
@[simp] theorem State.writePlen_version (s : State) (p : PReg) (v : Word) : (s.writePlen p v).version = s.version := rfl
@[simp] theorem State.writePlen_level (s : State) (p : PReg) (v : Word) : (s.writePlen p v).level = s.level := rfl
@[simp] theorem State.writePlen_g1 (s : State) (p : PReg) (v : Word) : (s.writePlen p v).g1 = s.g1 := rfl
@[simp] theorem State.writePlen_g2 (s : State) (p : PReg) (v : Word) : (s.writePlen p v).g2 = s.g2 := rfl
@[simp] theorem State.writePlen_rembits (s : State) (p : PReg) (v : Word) : (s.writePlen p v).rembits = s.rembits := rfl
@[simp] theorem State.writePlen_gridVer (s : State) (p : PReg) (v : Word) : (s.writePlen p v).gridVer = s.gridVer := rfl
@[simp] theorem State.writePlen_grid (s : State) (p : PReg) (v : Word) : (s.writePlen p v).grid = s.grid := rfl
@[simp] theorem State.writePlen_bestValid (s : State) (p : PReg) (v : Word) : (s.writePlen p v).bestValid = s.bestValid := rfl
@[simp] theorem State.writePlen_bestMask (s : State) (p : PReg) (v : Word) : (s.writePlen p v).bestMask = s.bestMask := rfl
@[simp] theorem State.writePlen_bestPen (s : State) (p : PReg) (v : Word) : (s.writePlen p v).bestPen = s.bestPen := rfl
@[simp] theorem State.writePlen_score (s : State) (p : PReg) (v : Word) : (s.writePlen p v).score = s.score := rfl
@[simp] theorem State.writePlen_turns (s : State) (p : PReg) (v : Word) : (s.writePlen p v).turns = s.turns := rfl
@[simp] theorem State.writePlen_rdata (s : State) (p : PReg) (v : Word) : (s.writePlen p v).rdata = s.rdata := rfl
@[simp] theorem State.writePlen_draws (s : State) (p : PReg) (v : Word) : (s.writePlen p v).draws = s.draws := rfl

end Sys2Proof.Machine
end

