-- ==== Sys2Proof/Laws/Command.lean ====
section
/-! SUPPORT. What a command's execution can end in, said once: an error, or a completion that leaves the host's registers
alone. -/

namespace Sys2Proof.Machine

/-- `u` is `s` but for the pieces of state that a command may write (10_state.md R26 to R40). -/
def State.OutputsOnly (s u : State) : Prop :=
  u = { s with
    result := u.result
    polys := u.polys
    bv := u.bv
    cw := u.cw
    gridVer := u.gridVer
    grid := u.grid
    bestValid := u.bestValid
    bestMask := u.bestMask
    bestPen := u.bestPen
    score := u.score }

theorem State.OutputsOnly.refl (s : State) : s.OutputsOnly s := rfl

theorem State.OutputsOnly.writeResult {w : Nat} (s : State) (v : BitVec w) : s.OutputsOnly (s.writeResult v) := rfl

theorem State.OutputsOnly.writePoly (s : State) (d : PReg) (r : Poly) : s.OutputsOnly (s.writePoly d r) := rfl

theorem State.OutputsOnly.writeGrid (s : State) (v : BitVec 6) (g : Grid) : s.OutputsOnly { s with gridVer := v, grid := g } := rfl

theorem State.OutputsOnly.setGrid (s : State) (g : Grid) : s.OutputsOnly { s with grid := g } := rfl

theorem State.OutputsOnly.setBv (s : State) (b : BitRam) : s.OutputsOnly { s with bv := b } := rfl

theorem State.OutputsOnly.setCw (s : State) (c : BitRam) : s.OutputsOnly { s with cw := c } := rfl

theorem State.OutputsOnly.setScore (s : State) (sc : Vector Scores 8) : s.OutputsOnly { s with score := sc } := rfl

theorem State.OutputsOnly.setSearch (s : State) (sc : Vector Scores 8) (g : Grid) (v : BitVec 6) (m : BitVec 3) (p : Word) :
    s.OutputsOnly { s with score := sc, grid := g, gridVer := v, bestValid := true, bestMask := m, bestPen := p } := rfl

/-- The command in execution ends with an error, or it completes a state that differs from s in outputs only
(40_command.md R133, 60_exceptions.md R311). -/
theorem exec_ends (i : Instr) (s : State) :
    (∃ e, exec i s = .next (s.raise e)) ∨ ∃ u, exec i s = .next u.complete ∧ s.OutputsOnly u := by
  cases i <;> dsimp only [exec]
  case nop => exact .inr ⟨s, rfl, rfl⟩
  case gfMul a b => exact .inr ⟨_, rfl, .writeResult s _⟩
  case gfDiv a b =>
    unfold execGfDiv; split
    · exact .inl ⟨_, rfl⟩
    · exact .inr ⟨_, rfl, .writeResult s _⟩
  case gfInv a =>
    unfold execGfInv; split
    · exact .inl ⟨_, rfl⟩
    · exact .inr ⟨_, rfl, .writeResult s _⟩
  case pAdd rd ra rb =>
    unfold execPAdd; split
    · exact .inr ⟨_, rfl, .writePoly s _ _⟩
    · exact .inl ⟨_, rfl⟩
  case pMul rd ra rb =>
    unfold execPMul; split
    · split
      · exact .inl ⟨_, rfl⟩
      · exact .inr ⟨_, rfl, .writePoly s _ _⟩
    · exact .inl ⟨_, rfl⟩
  case pRem rd ra rb =>
    unfold execPRem; split
    · split
      · exact .inl ⟨_, rfl⟩
      · exact .inr ⟨_, rfl, .writePoly s _ _⟩
    · exact .inl ⟨_, rfl⟩
  case pMono rd c k => exact .inr ⟨_, rfl, .writePoly s _ _⟩
  case pGen rd n => exact .inr ⟨_, rfl, .writePoly s _ _⟩
  case pRsenc rd ra n =>
    unfold execPRsenc; split
    · exact .inr ⟨_, rfl, .writePoly s _ _⟩
    · exact .inl ⟨_, rfl⟩
  case bvClear => exact .inr ⟨_, rfl, .setBv s _⟩
  case bvAppend n =>
    unfold execBvAppend; split
    · exact .inl ⟨_, rfl⟩
    · split
      · exact .inl ⟨_, rfl⟩
      · exact .inr ⟨_, rfl, .setBv s _⟩
  case bvAt =>
    unfold execBvAt; split
    · exact .inl ⟨_, rfl⟩
    · exact .inr ⟨_, rfl, .writeResult s _⟩
  case bvByteat =>
    unfold execBvByteat; split
    · exact .inl ⟨_, rfl⟩
    · exact .inr ⟨_, rfl, .writeResult s _⟩
  case eccInterleave =>
    unfold execEccInterleave; split
    · exact .inl ⟨_, rfl⟩
    · split
      · exact .inl ⟨_, rfl⟩
      · split
        · exact .inl ⟨_, rfl⟩
        · exact .inr ⟨_, rfl, .setCw s _⟩
  case gridClear =>
    unfold execGridClear; split
    · exact .inr ⟨_, rfl, .writeGrid s _ _⟩
    · exact .inl ⟨_, rfl⟩
  case gridStruct =>
    unfold execGridStruct; split
    · exact .inr ⟨_, rfl, .writeGrid s _ _⟩
    · exact .inl ⟨_, rfl⟩
  case gridMeta m =>
    unfold execGridMeta; split
    · exact .inl ⟨_, rfl⟩
    · split
      · exact .inl ⟨_, rfl⟩
      · exact .inr ⟨_, rfl, .setGrid s _⟩
  case gridData m =>
    unfold execGridData; split
    · exact .inl ⟨_, rfl⟩
    · split
      · exact .inl ⟨_, rfl⟩
      · split
        · exact .inl ⟨_, rfl⟩
        · exact .inr ⟨_, rfl, .setGrid s _⟩
  case gridBuild m =>
    unfold execGridBuild; split
    · exact .inl ⟨_, rfl⟩
    · split
      · exact .inl ⟨_, rfl⟩
      · split
        · exact .inl ⟨_, rfl⟩
        · exact .inr ⟨_, rfl, .writeGrid s _ _⟩
  case gridScore m =>
    unfold execGridScore; split
    · split
      · exact .inl ⟨_, rfl⟩
      · exact .inr ⟨_, rfl, .setScore s _⟩
    · exact .inl ⟨_, rfl⟩
  case maskSearch =>
    unfold execMaskSearch; split
    · exact .inl ⟨_, rfl⟩
    · split
      · exact .inl ⟨_, rfl⟩
      · exact .inr ⟨_, rfl, .setSearch s _ _ _ _ _⟩

end Sys2Proof.Machine
end

