-- ==== Sys2Proof/Laws/Step.lean ====
section
/-! SUPPORT. What one step can do, said once: every invariant is derived from these cases. -/

namespace Sys2Proof.Machine

/-- A pending word runs its command, or raises ILLEGAL_CMD (40_command.md R133, 30_encoding.md R105). -/
theorem runCommand_cases {w : Word} {s : State} {o : Outcome} (h : runCommand w s = o) :
    (∃ i, decode w = .ok i ∧ o = exec i s) ∨ ((∃ e, decode w = .error e) ∧ o = .next (s.raise .illegalCmd)) := by
  unfold runCommand at h
  split at h
  · next i hi => exact .inl ⟨i, hi, h.symm⟩
  · next e he => exact .inr ⟨⟨e, he⟩, h.symm⟩

/-- A bus access of a whole aligned word is a read or a write; every other access is refused (20_memory.md R72). -/
theorem busAccess_cases (a : Access) (s : State) :
    ((a.width ≠ .bits32 ∨ a.enables ≠ 0xF ∨ a.off.toNat % 4 ≠ 0) ∧ ∃ r, busAccess a s = .refused r) ∨
    (a.width = .bits32 ∧ a.enables = 0xF ∧ a.off.toNat % 4 = 0 ∧
      ((a.dir = .read ∧ busAccess a s = .next (s.hostRead a.off)) ∨
        ∃ v, a.dir = .write v ∧ busAccess a s = .next (s.hostWrite a.off v))) := by
  unfold busAccess
  split
  · next h => exact .inl ⟨h.elim .inl (.inr ∘ .inl), _, rfl⟩
  · next h =>
    obtain ⟨hw, he⟩ := not_or.1 h
    split
    · next hm => exact .inl ⟨.inr (.inr hm), _, rfl⟩
    · next hm =>
      refine .inr ⟨not_not.1 hw, not_not.1 he, not_not.1 hm, ?_⟩
      split
      · next hd => exact .inl ⟨hd, rfl⟩
      · next v hd => exact .inr ⟨v, hd, rfl⟩

/-- A step that answers a next state is an idle step, a command's step, a reset, a read or a write. -/
theorem step_cases {s t : State} (h : step s = .next t) :
    (∃ ts, ((s.turns = [] ∧ ts = []) ∨ s.turns = .sequencer :: ts) ∧
      ((s.pending = none ∧ t = { s with turns := ts }) ∨
        ∃ w, s.pending = some w ∧ runCommand w { s with turns := ts } = .next t)) ∨
    (∃ ts, s.turns = .hardReset :: ts ∧ t = State.resetCore { s with turns := ts }) ∨
    (∃ off ts, s.turns = .access ⟨off, .bits32, 0xF, .read⟩ :: ts ∧ off.toNat % 4 = 0 ∧
      t = State.hostRead { s with turns := ts } off) ∨
    ∃ off v ts, s.turns = .access ⟨off, .bits32, 0xF, .write v⟩ :: ts ∧ off.toNat % 4 = 0 ∧
      t = State.hostWrite { s with turns := ts } off v := by
  have turn : ∀ s' : State, sequencerTurn s' = .next t →
      (s'.pending = none ∧ t = s') ∨ ∃ w, s'.pending = some w ∧ runCommand w s' = .next t := by
    intro s' h
    unfold sequencerTurn at h
    split at h
    · next w hw => exact .inr ⟨w, hw, h⟩
    · next hn => cases h; exact .inl ⟨hn, rfl⟩
  unfold step at h
  split at h
  · next hts =>
    obtain ⟨hn, rfl⟩ | ⟨w, hw, hr⟩ := turn s h
    · exact .inl ⟨[], .inl ⟨hts, rfl⟩, .inl ⟨hn, by rw [← hts]⟩⟩
    · exact .inl ⟨[], .inl ⟨hts, rfl⟩, .inr ⟨w, hw, by rw [← hts]; exact hr⟩⟩
  · next tn ts hts =>
    cases tn with
    | hardReset => cases h; exact .inr (.inl ⟨ts, hts, rfl⟩)
    | sequencer => exact .inl ⟨ts, .inr hts, turn _ h⟩
    | access a =>
      obtain ⟨off, width, enables, dir⟩ := a
      obtain ⟨-, r, hr⟩ | ⟨rfl, rfl, hoff, ⟨rfl, hr⟩ | ⟨v, rfl, hr⟩⟩ := busAccess_cases ⟨off, width, enables, dir⟩ { s with turns := ts }
      · simp only [takeTurn, hr] at h; cases h
      · simp only [takeTurn, hr] at h; cases h
        exact .inr (.inr (.inl ⟨off, ts, hts, hoff, rfl⟩))
      · simp only [takeTurn, hr] at h; cases h
        exact .inr (.inr (.inr ⟨off, v, ts, hts, hoff, rfl⟩))

/-- A host read changes only what the host sees and the count of free draws (20_memory.md R82, R90). -/
theorem State.hostRead_eq (s : State) (off : BitVec 20) :
    s.hostRead off = { s with rdata := (s.hostRead off).rdata, draws := (s.hostRead off).draws } := by
  unfold State.hostRead; dsimp only; split <;> rfl

/-- A host write is refused while BUSY = 1 unless it goes to CTRL or STATUS, and performed otherwise (40_command.md R136). -/
theorem State.hostWrite_cases (s : State) (off : BitVec 20) (v : Word) :
    (s.busy = true ∧ (Target.ofOffset off).writableWhileBusy = false ∧ s.hostWrite off v = s.refuseWrite off) ∨
    ((s.busy = false ∨ (Target.ofOffset off).writableWhileBusy = true) ∧ s.hostWrite off v = s.writeTarget v (.ofOffset off)) := by
  unfold State.hostWrite; dsimp only
  cases hb : s.busy <;> cases hw : (Target.ofOffset off).writableWhileBusy <;> simp

end Sys2Proof.Machine
end

