-- ==== Sys2Proof/Laws/Bus.lean ====
section
/-! SUPPORT. The laws of the aperture: what each offset names, and what a bus access of a whole aligned word does. -/

namespace Sys2Proof.Machine

/-! ## What an offset names -/

@[simp] theorem Target.ofOffset_id : Target.ofOffset 0#20 = .id := by decide
@[simp] theorem Target.ofOffset_ctrl : Target.ofOffset 4#20 = .ctrl := by decide
@[simp] theorem Target.ofOffset_status : Target.ofOffset 8#20 = .status := by decide
@[simp] theorem Target.ofOffset_cmd : Target.ofOffset 12#20 = .cmd := by decide
@[simp] theorem Target.ofOffset_arg0 : Target.ofOffset 16#20 = .arg0 := by decide
@[simp] theorem Target.ofOffset_result : Target.ofOffset 20#20 = .result := by decide
@[simp] theorem Target.ofOffset_errinfo : Target.ofOffset 24#20 = .errinfo := by decide
@[simp] theorem Target.ofOffset_bvLen : Target.ofOffset 48#20 = .bvLen := by decide
@[simp] theorem Target.ofOffset_cwLen : Target.ofOffset 52#20 = .cwLen := by decide
@[simp] theorem Target.ofOffset_version : Target.ofOffset 64#20 = .version := by decide
@[simp] theorem Target.ofOffset_level : Target.ofOffset 68#20 = .level := by decide
@[simp] theorem Target.ofOffset_g1 : Target.ofOffset 72#20 = .g1 := by decide
@[simp] theorem Target.ofOffset_g2 : Target.ofOffset 76#20 = .g2 := by decide
@[simp] theorem Target.ofOffset_rembits : Target.ofOffset 80#20 = .rembits := by decide
@[simp] theorem Target.ofOffset_gridVer : Target.ofOffset 84#20 = .gridVer := by decide
@[simp] theorem Target.ofOffset_best : Target.ofOffset 88#20 = .best := by decide
@[simp] theorem Target.ofOffset_bestPen : Target.ofOffset 92#20 = .bestPen := by decide
@[simp] theorem Target.ofOffset_empty : Target.ofOffset 96#20 = .empty := by decide
@[simp] theorem Target.ofOffset_size : Target.ofOffset 100#20 = .size := by decide

theorem Target.ofOffset_plen (off : BitVec 20) (p : PReg) (h : off.toNat = 0x020 + 4 * p.val) : Target.ofOffset off = .plen p := by
  obtain rfl : off = BitVec.ofNat 20 (0x020 + 4 * p.val) := BitVec.eq_of_toNat_eq (by rw [h]; simp; omega)
  clear h; revert p; decide

theorem Target.ofOffset_score (off : BitVec 20) (m : Fin 8) (r : Nat) (hr : r < 8) (h : off.toNat = 0x200 + 0x20 * m.val + 4 * r) :
    Target.ofOffset off = if r < 5 then .score m r else .unmapped := by
  obtain rfl : off = BitVec.ofNat 20 (0x200 + 0x20 * m.val + 4 * r) := BitVec.eq_of_toNat_eq (by rw [h]; simp; omega)
  clear h; revert m; revert r; decide

theorem Target.ofOffset_expRom (off : BitVec 20) (i : Nat) (hi : i < 256) (h : off.toNat = 0x01000 + 4 * i) :
    Target.ofOffset off = .expRom i := by
  unfold Target.ofOffset; dsimp only
  rw [if_neg (by omega), if_neg (by omega), if_pos (by omega)]
  congr 1; omega

theorem Target.ofOffset_logRom (off : BitVec 20) (i : Nat) (hi : i < 256) (h : off.toNat = 0x01400 + 4 * i) :
    Target.ofOffset off = .logRom i := by
  unfold Target.ofOffset; dsimp only
  rw [if_neg (by omega), if_neg (by omega), if_neg (by omega), if_pos (by omega)]
  congr 1; omega

theorem Target.ofOffset_pram (off : BitVec 20) (p : PReg) (i : Fin 256) (h : off.toNat = 0x02000 + 0x400 * p.val + 4 * i.val) :
    Target.ofOffset off = .pram p i := by
  unfold Target.ofOffset; dsimp only
  rw [if_neg (by omega), if_neg (by omega), if_neg (by omega), if_neg (by omega), if_neg (by omega), dif_pos (by
    omega), if_pos (by omega)]
  congr 1 <;> apply Fin.ext <;> dsimp only <;> omega

theorem Target.ofOffset_bvWindow (off : BitVec 20) (w : Nat) (hw : w < 1024) (h : off.toNat = 0x04000 + 4 * w) :
    Target.ofOffset off = .bvWindow w := by
  unfold Target.ofOffset; dsimp only
  rw [if_neg (by omega), if_neg (by omega), if_neg (by omega), if_neg (by omega), if_neg (by omega), dif_neg (by
    omega), if_neg (by omega), if_pos (by omega)]
  congr 1; omega

theorem Target.ofOffset_cwWindow (off : BitVec 20) (w : Nat) (hw : w < 1024) (h : off.toNat = 0x05000 + 4 * w) :
    Target.ofOffset off = .cwWindow w := by
  unfold Target.ofOffset; dsimp only
  rw [if_neg (by omega), if_neg (by omega), if_neg (by omega), if_neg (by omega), if_neg (by omega), dif_neg (by
    omega), if_neg (by omega), if_neg (by omega), if_pos (by omega)]
  congr 1; omega

theorem Target.ofOffset_grid (off : BitVec 20) (x y : Nat) (hx : x < 256) (hy : y < 256)
    (h : off.toNat = 0x40000 + 4 * (256 * y + x)) : Target.ofOffset off = .grid x y := by
  unfold Target.ofOffset; dsimp only
  rw [if_neg (by omega), if_neg (by omega), if_neg (by omega), if_neg (by omega), if_neg (by omega), dif_neg (by
    omega), if_neg (by omega), if_neg (by omega), if_neg (by omega), if_neg (by omega), if_pos (by omega)]
  congr 1 <;> omega

theorem Target.ofOffset_bitmap (off : BitVec 20) (x y : Nat) (hx : x < 256) (hy : y < 256)
    (h : off.toNat = 0x80000 + 4 * (256 * y + x)) : Target.ofOffset off = .bitmap x y := by
  unfold Target.ofOffset; dsimp only
  rw [if_neg (by omega), if_neg (by omega), if_neg (by omega), if_neg (by omega), if_neg (by omega), dif_neg (by
    omega), if_neg (by omega), if_neg (by omega), if_neg (by omega), if_neg (by omega), if_neg (by omega), if_pos (by
    omega)]
  congr 1 <;> omega

/-- The ranges of the aperture that name nothing (20_memory.md R70, R81). -/
theorem Target.ofOffset_unmapped (off : BitVec 20)
    (h : (0x00300 ≤ off.toNat ∧ off.toNat < 0x01000) ∨ (0x01800 ≤ off.toNat ∧ off.toNat < 0x02000)
      ∨ (0x03000 ≤ off.toNat ∧ off.toNat < 0x04000) ∨ (0x06000 ≤ off.toNat ∧ off.toNat < 0x40000) ∨ 0xC0000 ≤ off.toNat) :
    Target.ofOffset off = .unmapped := by
  unfold Target.ofOffset; dsimp only
  rcases h with h | h | h | h | h
  · rw [if_neg (by omega), if_pos (by omega)]
  · rw [if_neg (by omega), if_neg (by omega), if_neg (by omega), if_neg (by omega), if_pos (by omega)]
  · rw [if_neg (by omega), if_neg (by omega), if_neg (by omega), if_neg (by omega), if_neg (by omega), dif_neg (by
    omega), if_pos (by omega)]
  · rw [if_neg (by omega), if_neg (by omega), if_neg (by omega), if_neg (by omega), if_neg (by omega), dif_neg (by
    omega), if_neg (by omega), if_neg (by omega), if_neg (by omega), if_pos (by omega)]
  · rw [if_neg (by omega), if_neg (by omega), if_neg (by omega), if_neg (by omega), if_neg (by omega), dif_neg (by
    omega), if_neg (by omega), if_neg (by omega), if_neg (by omega), if_neg (by omega), if_neg (by omega), if_neg (by
    omega)]

/-- Below the score slots a target is a register of the map at its own offset, or nothing (10_state.md R22). -/
theorem Target.ofRegister_cases (o : Nat) :
    o ∈ [0x000, 0x004, 0x008, 0x00C, 0x010, 0x014, 0x018, 0x020, 0x024, 0x028, 0x02C, 0x030, 0x034, 0x040, 0x044, 0x048, 0x04C] ++
      [0x050, 0x054, 0x058, 0x05C, 0x060, 0x064] ∨ (∃ m r, Target.ofRegister o = .score m r) ∨ Target.ofRegister o = .unmapped := by
  unfold Target.ofRegister
  split <;> first | (left; decide) | skip
  split
  · exact .inr (.inl ⟨_, _, rfl⟩)
  · exact .inr (.inr rfl)

/-- A property of both branches holds of the choice. -/
theorem Target.ite_of {P : Target → Prop} {c : Prop} [Decidable c] {a b : Target} (ha : P a) (hb : P b) :
    P (if c then a else b) := by split <;> assumption

/-- Nothing at or above the register file is special while BUSY = 1. -/
theorem Target.ofOffset_above (off : BitVec 20) (h : ¬ off.toNat < 0x300) :
    (Target.ofOffset off).writableWhileBusy = false ∧ (Target.ofOffset off).definedWhileBusy = false := by
  let P : Target → Prop := fun t => t.writableWhileBusy = false ∧ t.definedWhileBusy = false
  show P (Target.ofOffset off)
  have hu : P .unmapped := ⟨rfl, rfl⟩
  have tail : ∀ {c : Prop} [Decidable c] {a b : Target}, P a → P b → P (if c then a else b) := Target.ite_of
  unfold Target.ofOffset; dsimp only
  rw [if_neg h]
  refine tail hu (tail ⟨rfl, rfl⟩ (tail ⟨rfl, rfl⟩ (tail hu ?_)))
  by_cases h3 : off.toNat < 0x03000
  · rw [dif_pos h3]; exact tail ⟨rfl, rfl⟩ hu
  · rw [dif_neg h3]
    exact tail hu (tail ⟨rfl, rfl⟩ (tail ⟨rfl, rfl⟩ (tail hu (tail ⟨rfl, rfl⟩ (tail ⟨rfl, rfl⟩ hu)))))

/-- CTRL and STATUS are the registers a write reaches while BUSY = 1 (40_command.md R136). -/
theorem Target.writableWhileBusy_iff (off : BitVec 20) :
    (Target.ofOffset off).writableWhileBusy = true ↔ off = 4#20 ∨ off = 8#20 := by
  constructor
  · intro h
    have here : ∀ n, off.toNat = n → off = BitVec.ofNat 20 n := fun n hn => by rw [← hn, BitVec.ofNat_toNat, BitVec.setWidth_eq]
    by_cases h3 : off.toNat < 0x300
    · unfold Target.ofOffset at h; dsimp only at h
      rw [if_pos h3] at h
      obtain hm | ⟨m, r, hr⟩ | hu := Target.ofRegister_cases off.toNat
      · simp only [List.mem_append, List.mem_cons, List.not_mem_nil, or_false] at hm
        rcases hm with (hm | hm | hm | hm | hm | hm | hm | hm | hm | hm | hm | hm | hm | hm | hm | hm | hm) | hm | hm | hm | hm | hm | hm
        all_goals rw [hm] at h; first | (cases h; done) | (rw [here _ hm]; simp)
      · rw [hr] at h; cases h
      · rw [hu] at h; cases h
    · simp [(Target.ofOffset_above off h3).1] at h
  · rintro (rfl | rfl) <;> simp [Target.writableWhileBusy]

/-- ID, CTRL, STATUS, CMD and ERRINFO are the registers whose reads stay defined while BUSY = 1 (20_memory.md R90). -/
theorem Target.definedWhileBusy_iff (off : BitVec 20) :
    (Target.ofOffset off).definedWhileBusy = true ↔ off = 0#20 ∨ off = 4#20 ∨ off = 8#20 ∨ off = 12#20 ∨ off = 24#20 := by
  constructor
  · intro h
    have here : ∀ n, off.toNat = n → off = BitVec.ofNat 20 n := fun n hn => by rw [← hn, BitVec.ofNat_toNat, BitVec.setWidth_eq]
    by_cases h3 : off.toNat < 0x300
    · unfold Target.ofOffset at h; dsimp only at h
      rw [if_pos h3] at h
      obtain hm | ⟨m, r, hr⟩ | hu := Target.ofRegister_cases off.toNat
      · simp only [List.mem_append, List.mem_cons, List.not_mem_nil, or_false] at hm
        rcases hm with (hm | hm | hm | hm | hm | hm | hm | hm | hm | hm | hm | hm | hm | hm | hm | hm | hm) | hm | hm | hm | hm | hm | hm
        all_goals rw [hm] at h; first | (cases h; done) | (rw [here _ hm]; simp)
      · rw [hr] at h; cases h
      · rw [hu] at h; cases h
    · simp [(Target.ofOffset_above off h3).2] at h
  · rintro (rfl | rfl | rfl | rfl | rfl) <;> simp [Target.definedWhileBusy]

/-! ## Accesses -/

/-- A turn that is a bus access performs it (20_memory.md R72). -/
theorem step_access {s : State} {a : Access} {ts : List Turn} (h : s.turns = .access a :: ts) :
    step s = busAccess a { s with turns := ts } := by
  unfold step; rw [h]; rfl

/-- The sequencer's turn with a command pending runs it (40_command.md R132). -/
theorem step_sequencer {s : State} {w : Word} {ts : List Turn} (hw : s.pending = some w)
    (h : (s.turns = [] ∧ ts = []) ∨ s.turns = .sequencer :: ts) : step s = runCommand w { s with turns := ts } := by
  unfold step
  obtain ⟨h, rfl⟩ | h := h <;> rw [h]
  · have : s = { s with turns := [] } := by rw [← h]
    simp only [sequencerTurn, hw]
    exact congrArg (runCommand w) (this.trans (by rw [hw]))
  · simp only [takeTurn, sequencerTurn, hw]

theorem busAccess_read {off : BitVec 20} (h : off.toNat % 4 = 0) (s : State) :
    busAccess ⟨off, .bits32, 0xF, .read⟩ s = .next (s.hostRead off) := by
  unfold busAccess; simp [h]

theorem busAccess_write {off : BitVec 20} (h : off.toNat % 4 = 0) (v : Word) (s : State) :
    busAccess ⟨off, .bits32, 0xF, .write v⟩ s = .next (s.hostWrite off v) := by
  unfold busAccess; simp [h]

/-- While BUSY = 0 a read gives what its offset names (20_memory.md R82). -/
theorem State.hostRead_idle {s : State} (h : s.pending = none) (off : BitVec 20) :
    s.hostRead off = { s with rdata := s.readTarget (.ofOffset off) } := by
  unfold State.hostRead; simp [State.busy, h]

/-- While BUSY = 0 a write reaches what its offset names (40_command.md R136). -/
theorem State.hostWrite_idle {s : State} (h : s.pending = none) (off : BitVec 20) (v : Word) :
    s.hostWrite off v = s.writeTarget v (.ofOffset off) := by
  unfold State.hostWrite; simp [State.busy, h]

/-- While BUSY = 1 a write to anything but CTRL and STATUS is refused by the CORE (40_command.md R136). -/
theorem State.hostWrite_busy {s : State} (h : s.pending ≠ none) {off : BitVec 20} (h4 : off ≠ 4#20) (h8 : off ≠ 8#20) (v : Word) :
    s.hostWrite off v = s.refuseWrite off := by
  have hb : s.busy = true := Option.isSome_iff_ne_none.2 h
  have hw : (Target.ofOffset off).writableWhileBusy = false := by
    rw [← Bool.not_eq_true, Target.writableWhileBusy_iff]; exact not_or.2 ⟨h4, h8⟩
  simp [State.hostWrite, hb, hw]

/-- CTRL is written at any time (40_command.md R136). -/
@[simp] theorem State.hostWrite_ctrl (s : State) (v : Word) : s.hostWrite 4#20 v = s.writeCtrl v := by
  simp [State.hostWrite, Target.writableWhileBusy, State.writeTarget]

/-- STATUS is written at any time (40_command.md R136). -/
@[simp] theorem State.hostWrite_status (s : State) (v : Word) : s.hostWrite 8#20 v = s.writeStatus v := by
  simp [State.hostWrite, Target.writableWhileBusy, State.writeTarget]

/-- What a read gives depends on neither the host's side nor the draw counter. -/
@[simp] theorem State.readTarget_host (s : State) (ts : List Turn) (r : Word) (d : Nat) (t : Target) :
    State.readTarget { s with turns := ts, rdata := r, draws := d } t = s.readTarget t := by
  cases t <;> rfl

end Sys2Proof.Machine
end

