-- ==== Sys2Proof/Laws/Encoding.lean ====
section
/-! SUPPORT. The bits of a command word: which field each bit of an encoding comes from (30_encoding.md R101). -/

namespace Sys2Proof

/-- Bit j of an encoded word, by the field it belongs to (30_encoding.md R101). -/
theorem Fields.getLsbD_toWord (op : Byte) (f : Fields) (j : Nat) (hj : j < 32) :
    (f.toWord op).getLsbD j =
      if j < 8 then op.getLsbD j
      else if j < 10 then f.rd.getLsbD (j - 8)
      else if j < 12 then f.ra.getLsbD (j - 10)
      else if j < 14 then f.rb.getLsbD (j - 12)
      else if j < 16 then f.rsv.getLsbD (j - 14)
      else if j < 24 then f.i1.getLsbD (j - 16)
      else f.i2.getLsbD (j - 24) := by
  unfold Fields.toWord
  interval_cases j <;> simp

/-- The low byte of an encoded word is its OP (30_encoding.md R101). -/
theorem opcodeOf_toWord (op : Byte) (f : Fields) : opcodeOf (f.toWord op) = op := by
  refine BitVec.eq_of_getLsbD_eq fun j hj => ?_
  simp [opcodeOf, Fields.getLsbD_toWord op f j (by omega), hj]

/-- The fields of an encoded word are the ones encoded (30_encoding.md R101). -/
theorem Fields.ofWord_toWord (op : Byte) (f : Fields) : Fields.ofWord (f.toWord op) = f := by
  obtain ⟨rd, ra, rb, rsv, i1, i2⟩ := f
  simp only [Fields.ofWord, Fields.mk.injEq]
  refine ⟨?_, ?_, ?_, ?_, ?_, ?_⟩ <;> refine BitVec.eq_of_getLsbD_eq fun j hj => ?_ <;>
    rw [BitVec.getLsbD_extractLsb', Fields.getLsbD_toWord _ _ _ (by omega)] <;>
    interval_cases j <;> simp

/-- A word is the encoding of its own fields (30_encoding.md R101). -/
theorem Fields.toWord_ofWord (w : Word) : (Fields.ofWord w).toWord (opcodeOf w) = w := by
  refine BitVec.eq_of_getLsbD_eq fun j hj => ?_
  rw [Fields.getLsbD_toWord _ _ _ hj]
  interval_cases j <;> simp [Fields.ofWord, opcodeOf]

end Sys2Proof
end

