-- ==== Sys2Proof/Laws/Grid.lean ====
section
/-! SUPPORT. The laws of the module array: what a module reads as after a put and after a drawing, where the drawings
of the symbol builder write, and the count of unused modules. -/

namespace Sys2Proof.Machine

/-! ## One module -/

namespace Grid

theorem get_outside (g : Grid) {x y : Nat} (h : ¬ (x < 177 ∧ y < 177)) : g.get x y = .blank := dif_neg h

@[simp] theorem get_blank (x y : Nat) : Grid.get .blank x y = .blank := by
  unfold Grid.get Grid.blank; split <;> simp

theorem get_setModule (g : Grid) (x y : Nat) (m : Module) (x' y' : Nat) :
    (g.setModule x y m).get x' y' = if x' = x ∧ y' = y ∧ x < 177 ∧ y < 177 then m else g.get x' y' := by
  unfold Grid.get Grid.setModule
  by_cases h : x < 177 ∧ y < 177 <;> by_cases h' : x' < 177 ∧ y' < 177 <;> simp only [h, h', dif_neg, not_false_eq_true]
  · by_cases hy : y' = y <;> by_cases hx : x' = x <;>
      simp [hx, hy, eq_comm (a := y), eq_comm (a := x)]
  · rw [if_neg (by omega)]
  · simp
  · simp

theorem get_put (g : Grid) (x y : Nat) (b : Bool) (x' y' : Nat) :
    (g.put x y b).get x' y' = if x' = x ∧ y' = y ∧ x < 177 ∧ y < 177 then ⟨b, true⟩ else g.get x' y' :=
  get_setModule g x y _ x' y'

/-- Two grids with the same modules are equal. -/
theorem ext {g g' : Grid} (h : ∀ x y, x < 177 → y < 177 → g.get x y = g'.get x y) : g = g' := by
  refine Vector.ext fun y hy => Vector.ext fun x hx => ?_
  simpa [Grid.get, hx, hy] using h x y hx hy

/-! ## Drawings -/

/-- A module that no put writes is as before. -/
theorem get_draw_of_not_mem (g : Grid) (ps : List Put) {x y : Nat} (h : ∀ p ∈ ps, ¬ (x = p.x ∧ y = p.y)) :
    (g.draw ps).get x y = g.get x y := by
  induction ps generalizing g with
  | nil => rfl
  | cons p ps ih =>
    have := ih (g.put p.x p.y p.b) fun q hq => h q (List.mem_cons_of_mem _ hq)
    rw [Grid.draw, List.foldl_cons, ← Grid.draw, this, get_put, if_neg]
    exact fun hp => h p (by simp) ⟨hp.1, hp.2.1⟩

theorem draw_append (g : Grid) (ps qs : List Put) : g.draw (ps ++ qs) = (g.draw ps).draw qs := by
  simp [Grid.draw]

/-- A module that every put of the drawing writes with one value, and some put writes, has that value and is used. -/
theorem get_draw_of_mem (g : Grid) (ps : List Put) {x y : Nat} {b : Bool} (hx : x < 177) (hy : y < 177)
    (hmem : ∃ p ∈ ps, x = p.x ∧ y = p.y) (hval : ∀ p ∈ ps, x = p.x → y = p.y → p.b = b) :
    (g.draw ps).get x y = ⟨b, true⟩ := by
  induction ps generalizing g with
  | nil => simp at hmem
  | cons p ps ih =>
    have hval' : ∀ q ∈ ps, x = q.x → y = q.y → q.b = b := fun q hq => hval q (List.mem_cons_of_mem _ hq)
    rw [Grid.draw, List.foldl_cons, ← Grid.draw]
    by_cases htl : ∃ q ∈ ps, x = q.x ∧ y = q.y
    · exact ih _ htl hval'
    · have hp : x = p.x ∧ y = p.y := by
        obtain ⟨q, hq, hxy⟩ := hmem
        obtain rfl | hq := List.mem_cons.1 hq
        · exact hxy
        · exact absurd ⟨q, hq, hxy⟩ htl
      rw [get_draw_of_not_mem _ _ fun q hq hxy => htl ⟨q, hq, hxy⟩, get_put, if_pos ⟨hp.1, hp.2, hp.1 ▸ hx, hp.2 ▸ hy⟩,
        hval p (by simp) hp.1 hp.2]

/-- A drawing unmakes no used module. -/
theorem used_draw_of_used (g : Grid) (ps : List Put) {x y : Nat} (h : (g.get x y).used = true) :
    ((g.draw ps).get x y).used = true := by
  induction ps generalizing g with
  | nil => exact h
  | cons p ps ih =>
    rw [Grid.draw, List.foldl_cons, ← Grid.draw]
    refine ih _ ?_
    rw [get_put]; split
    · rfl
    · exact h

end Grid

/-! ## Where the drawings write -/

/-- The side of a version's symbol is at most 177. -/
theorem side_le {v : BitVec 6} (h : v.toNat ≤ 40) : side v ≤ 177 := by unfold side; omega

theorem side_ge (v : BitVec 6) : 21 ≤ side v := by unfold side; omega

theorem versionOk_iff {v : BitVec 6} : versionOk v = true ↔ 1 ≤ v.toNat ∧ v.toNat ≤ 40 := by
  rw [versionOk, decide_eq_true_iff]; rfl

/-- An alignment pattern around a coordinate of ALIGN[v] stays inside the symbol (45_symbol.md R245). -/
theorem alignAt_bound : ∀ v : BitVec 6, ∀ c ∈ alignAt v, c + 2 < side v := by decide

theorem mem_alignmentCentres {v : BitVec 6} {c : Nat × Nat} (h : c ∈ alignmentCentres v) :
    c.1 ∈ alignAt v ∧ c.2 ∈ alignAt v := by
  simp only [alignmentCentres, List.mem_flatMap, List.mem_filterMap, List.mem_range] at h
  obtain ⟨i, hi, j, hj, h⟩ := h
  split at h
  · cases h
  · cases h
    simp [hi, hj]

theorem finderPuts_bound {fx fy : Nat} {p : Put} (h : p ∈ finderPuts fx fy) : p.x < fx + 7 ∧ p.y < fy + 7 := by
  simp only [finderPuts, List.mem_flatMap, List.mem_map, List.mem_range] at h
  obtain ⟨dy, hy, dx, hx, rfl⟩ := h
  exact ⟨Nat.add_lt_add_left hx fx, Nat.add_lt_add_left hy fy⟩

theorem separatorPuts_bound {s fx fy : Nat} {p : Put} (h : p ∈ separatorPuts s fx fy) : p.x < s ∧ p.y < s := by
  simp only [separatorPuts, List.mem_flatMap, List.mem_filterMap, List.mem_range] at h
  obtain ⟨j, hj, i, hi, h⟩ := h
  split at h
  · next hc => cases h; exact ⟨hc.2.2.1, hc.2.2.2.2⟩
  · cases h

theorem alignmentPuts_bound {cx cy : Nat} {p : Put} (h : p ∈ alignmentPuts cx cy) : p.x ≤ cx + 2 ∧ p.y ≤ cy + 2 := by
  simp only [alignmentPuts, List.mem_flatMap, List.mem_map, List.mem_range] at h
  obtain ⟨j, hj, i, hi, rfl⟩ := h
  dsimp only; omega

/-- Every structural put lies in the symbol. -/
theorem structPuts_bound (v : BitVec 6) : ∀ p ∈ structPuts v, p.x < side v ∧ p.y < side v := by
  intro p hp
  have hs := side_ge v
  simp only [structPuts, List.mem_append] at hp
  rcases hp with ((((hp | hp) | hp | hp) | hp | hp) | hp) | hp
  · have := finderPuts_bound hp; omega
  · exact separatorPuts_bound hp
  · have := finderPuts_bound hp; omega
  · exact separatorPuts_bound hp
  · have := finderPuts_bound hp; omega
  · exact separatorPuts_bound hp
  · obtain ⟨c, hc, hp⟩ := List.mem_flatMap.1 hp
    have := alignmentPuts_bound hp
    have hx := alignAt_bound v _ (mem_alignmentCentres hc).1
    have hy := alignAt_bound v _ (mem_alignmentCentres hc).2
    omega
  · simp only [timingPuts, List.mem_flatMap, List.mem_range, List.mem_cons, List.not_mem_nil, or_false] at hp
    obtain ⟨i, hi, rfl | rfl⟩ := hp <;> dsimp only <;> omega

/-- Every meta put lies in the symbol. -/
theorem metaPuts_bound (v : BitVec 6) (level : BitVec 2) (m : Nat) : ∀ p ∈ metaPuts v level m, p.x < side v ∧ p.y < side v := by
  intro p hp
  have hs := side_ge v
  simp only [metaPuts, formatPuts, darkModulePuts, versionPuts, List.mem_append, List.mem_map, List.mem_range,
    List.mem_cons, List.not_mem_nil, or_false] at hp
  rcases hp with (((((⟨i, hi, rfl⟩ | rfl | rfl | rfl) | ⟨i, hi, rfl⟩) | ⟨i, hi, rfl⟩) | ⟨i, hi, rfl⟩) | rfl) | hp
  all_goals try (dsimp only; omega)
  split at hp
  · simp at hp
  · simp only [List.mem_flatMap, List.mem_range, List.mem_cons, List.not_mem_nil, or_false] at hp
    obtain ⟨i, hi, rfl | rfl⟩ := hp <;> dsimp only <;> omega

/-- Every visited position lies in the symbol, and its module was unused (45_symbol.md R258). -/
theorem Grid.mem_placementOrder {g : Grid} {s : Nat} {p : Nat × Nat} (hs : 9 ≤ s) (h : p ∈ g.placementOrder s) :
    p.1 < s ∧ p.2 < s ∧ (g.get p.1 p.2).used = false := by
  simp only [Grid.placementOrder, pairPositions, List.mem_filter, List.mem_flatMap, List.mem_range, List.mem_cons,
    List.not_mem_nil, or_false, Bool.not_eq_true'] at h
  obtain ⟨⟨k, hk, t, ht, hp⟩, hu⟩ := h
  refine ⟨?_, ?_, hu⟩ <;> obtain rfl | rfl := hp <;> dsimp only <;> split <;> omega

/-- Every data write is at a visited position (45_symbol.md R259). -/
theorem mem_dataPuts {m : Nat} {order : List (Nat × Nat)} {bits : List Bool} {p : Put} (h : p ∈ dataPuts m order bits) :
    (p.x, p.y) ∈ order := by
  induction order generalizing bits with
  | nil => simp [dataPuts] at h
  | cons o order ih =>
    cases bits with
    | nil => simp [dataPuts] at h
    | cons b bits =>
      rw [dataPuts, List.zipWith_cons_cons, ← dataPuts] at h
      obtain rfl | h := List.mem_cons.1 h
      · exact List.mem_cons_self
      · exact List.mem_cons_of_mem _ (ih h)

/-- The n-th visited module takes the n-th bit, inverted where the mask is on, if no position is visited twice (45_symbol.md R259). -/
theorem Grid.get_drawData_of_nodup (g : Grid) (m : Nat) {order : List (Nat × Nat)} (bits : List Bool) (hn : order.Nodup)
    (hb : ∀ p ∈ order, p.1 < 177 ∧ p.2 < 177) {n : Nat} {p : Nat × Nat} {b : Bool} (ho : order[n]? = some p)
    (hbit : bits[n]? = some b) : (g.draw (dataPuts m order bits)).get p.1 p.2 = ⟨b ^^ maskOn m p.1 p.2, true⟩ := by
  induction order generalizing g bits n with
  | nil => simp at ho
  | cons o order ih =>
    obtain ⟨hno, hn⟩ := List.nodup_cons.1 hn
    cases bits with
    | nil => simp at hbit
    | cons c bits =>
      rw [dataPuts, List.zipWith_cons_cons, ← dataPuts, Grid.draw, List.foldl_cons, ← Grid.draw]
      cases n with
      | succ n =>
        exact ih _ bits hn (fun q hq => hb q (List.mem_cons_of_mem _ hq)) (by simpa using ho) (by simpa using hbit)
      | zero =>
        obtain rfl : o = p := by simpa using ho
        obtain rfl : c = b := by simpa using hbit
        have := hb o (by simp)
        rw [Grid.get_draw_of_not_mem, Grid.get_put, if_pos ⟨rfl, rfl, this⟩]
        rintro q hq ⟨hx, hy⟩
        exact hno (by simpa [← hx, ← hy] using mem_dataPuts hq)

/-! ## Unused modules -/

/-- No module of the symbol is unused exactly when every one is used. -/
theorem Grid.empty_eq_zero {g : Grid} {s : Nat} :
    g.empty s = 0 ↔ ∀ x y, x < s → y < s → (g.get x y).used = true := by
  simp only [Grid.empty, Grid.emptyInRow, List.sum_eq_zero_iff, List.mem_map, List.mem_range, forall_exists_index, and_imp,
    forall_apply_eq_imp_iff₂, List.countP_eq_zero, Bool.not_eq_true', Bool.not_eq_false]
  exact ⟨fun h x y hx hy => h y hy x hx, fun h y hy x hx => h x y hx hy⟩

/-- The count of unused modules is the size of a set of positions (10_state.md R38). -/
theorem Grid.empty_eq_card (g : Grid) (s : Nat) :
    g.empty s = ((Finset.range s ×ˢ Finset.range s).filter fun p => (g.get p.1 p.2).used = false).card := by
  have row (y : Nat) : g.emptyInRow s y = ((Finset.range s).filter fun x => (g.get x y).used = false).card := by
    rw [Grid.emptyInRow, List.countP_eq_length_filter]
    exact congrArg List.length (List.filter_congr fun x _ => by simp)
  simp only [Grid.empty, List.map_congr_left fun y _ => row y, Finset.card_filter, Finset.sum_product_right]
  rfl

/-- A cleared symbol has s² unused modules (45_symbol.md R241). -/
theorem Grid.empty_blank (s : Nat) : Grid.blank.empty s = s * s := by
  have h : Grid.blank.emptyInRow s = fun _ => s := by
    funext y; simp [Grid.emptyInRow, Module.blank]
  simp [Grid.empty, h]

end Sys2Proof.Machine
end

