-- ==== Sys2Proof/Laws/Memory.lean ====
section
/-! SUPPORT. The laws of the byte memory and of the bit RAMs in it: what a read gives after a write, that a write keeps
the canonical form and the address range, and the bits of the operations over bits. -/

namespace Sys2Proof.Machine

/-! ## Byte memory -/

namespace Memory

@[simp] theorem read_nil (k : Nat) : read [] k = unlisted := rfl

theorem wf_nil : wf [] := by simp [wf]

theorem wf_tail {c : Host.Cell} {m : Memory} (h : wf (c :: m)) : wf m :=
  ⟨(List.pairwise_cons.1 h.1).2, fun d hd => h.2 d (List.mem_cons_of_mem _ hd)⟩

/-- An address below every listed one reads as unlisted. -/
theorem read_below {m : Memory} {k : Nat} (h : ∀ c ∈ m, k < c.1) : read m k = unlisted := by
  induction m with
  | nil => rfl
  | cons c m ih =>
    have hc := h c (by simp)
    simp only [read, show c.1 ≠ k by omega, if_false]
    exact ih fun d hd => h d (List.mem_cons_of_mem _ hd)

/-- A read after a write gives the value written there, and what it gave before everywhere else. -/
theorem read_write {m : Memory} (h : m.Pairwise (fun a b => a.1 < b.1)) (k : Nat) (v : Byte) (j : Nat) :
    read (write m k v) j = if j = k then v else read m j := by
  induction m with
  | nil => by_cases hv : v = unlisted <;> by_cases hj : j = k <;> simp_all [write, read, eq_comm]
  | cons c m ih =>
    obtain ⟨a, b⟩ := c
    obtain ⟨hlt, hm⟩ := List.pairwise_cons.1 h
    have below : ∀ i, i ≤ a → read m i = unlisted := fun i hi =>
      read_below fun c hc => Nat.lt_of_le_of_lt hi (hlt c hc)
    rcases Nat.lt_trichotomy a k with h1 | rfl | h1
    · simp only [write, if_pos h1, read, ih hm]
      by_cases ha : a = j
      · simp [ha, show j ≠ k by omega]
      · simp [ha]
    · by_cases hv : v = unlisted <;> by_cases hj : j = a <;>
        simp [write, read, hv, hj, eq_comm (b := j), below]
    · by_cases hv : v = unlisted <;> by_cases hj : j = k <;>
        simp [write, read, hv, hj, eq_comm (b := j), below, show ¬ a < k by omega, show a ≠ k by omega, Nat.le_of_lt h1]

/-- Every cell after a write is the cell written or one that was there. -/
theorem mem_write {m : Memory} {k : Nat} {v : Byte} {c : Host.Cell} (h : c ∈ write m k v) :
    (c = (k, v) ∧ v ≠ unlisted) ∨ c ∈ m := by
  induction m with
  | nil => by_cases hv : v = unlisted <;> simp_all [write]
  | cons d m ih =>
    obtain ⟨a, b⟩ := d
    simp only [write] at h
    split_ifs at h <;> simp only [List.mem_cons] at h ⊢ <;> grind

/-- A write keeps the canonical form. -/
theorem write_wf {m : Memory} (h : wf m) (k : Nat) (v : Byte) : wf (write m k v) := by
  refine ⟨?_, fun c hc => ?_⟩
  · induction m with
    | nil => by_cases hv : v = unlisted <;> simp [write, hv]
    | cons d m ih =>
      obtain ⟨a, b⟩ := d
      have hm := wf_tail h
      obtain ⟨hlt, hp⟩ := List.pairwise_cons.1 h.1
      simp only [write]
      split_ifs with h1 h2 hv hv
      · refine List.pairwise_cons.2 ⟨fun c hc => ?_, ih hm⟩
        obtain ⟨rfl, -⟩ | hc := mem_write hc
        · exact h1
        · exact hlt c hc
      · exact hp
      · exact List.pairwise_cons.2 ⟨fun c hc => by simpa [h2] using hlt c hc, hp⟩
      · exact h.1
      · refine List.pairwise_cons.2 ⟨fun c hc => ?_, h.1⟩
        obtain rfl | hc := List.mem_cons.1 hc
        · show k < a; omega
        · have := hlt c hc; simp only at this ⊢; omega
  · obtain ⟨rfl, hv⟩ | hc := mem_write hc
    · exact hv
    · exact h.2 c hc

/-- A write inside a range keeps every listed address in it. -/
theorem write_range {m : Memory} {n : Nat} (h : ∀ c ∈ m, c.1 < n) {k : Nat} (hk : k < n) (v : Byte) :
    ∀ c ∈ write m k v, c.1 < n := fun c hc => by
  obtain ⟨rfl, -⟩ | hc := mem_write hc
  · exact hk
  · exact h c hc

end Memory

/-! ## Bits of bytes -/

theorem getLsbD_setByteBit (v : Byte) (i : Nat) (b : Bool) (j : Nat) (hj : j < 8) :
    (setByteBit v i b).getLsbD j = if j = i then b else v.getLsbD j := by
  unfold setByteBit
  cases b <;> simp [BitVec.getLsbD_one] <;> grind

theorem getLsbD_byteOfBits (f : Nat → Bool) (j : Nat) (hj : j < 8) : (byteOfBits f).getLsbD j = f (7 - j) := by
  rw [byteOfBits, BitVec.getLsbD_ofBoolListBE]
  interval_cases j <;> rfl

@[simp] theorem length_bitsOfByte (b : Byte) : (bitsOfByte b).length = 8 := by simp [bitsOfByte]

theorem getElem?_bitsOfByte (b : Byte) (k : Nat) (hk : k < 8) : (bitsOfByte b)[k]? = some (b.getLsbD (7 - k)) := by
  simp [bitsOfByte, hk]

/-! ## Bit RAMs -/

/-- The bit RAM's bit k, for a RAM alone. -/
theorem BitRam.bit_mk (m : Memory) (n : BitVec 16) (k : Nat) :
    (BitRam.mk m n).bit k = (Memory.read m (k / 8)).getLsbD (7 - k % 8) := rfl

theorem setRamBit_wf {m : Memory} (h : Memory.wf m) (k : Nat) (b : Bool) : Memory.wf (setRamBit m k b) :=
  Memory.write_wf h _ _

/-- Setting a bit changes no byte but its own. -/
theorem read_setRamBit_ne {m : Memory} (h : Memory.wf m) (k : Nat) (b : Bool) {a : Nat} (ha : a ≠ k / 8) :
    Memory.read (setRamBit m k b) a = Memory.read m a := by
  simp [setRamBit, Memory.read_write h.1, ha]

/-- After setting bit k, bit k is b and every other bit is as before. -/
theorem bit_setRamBit {m : Memory} (h : Memory.wf m) (n : BitVec 16) (k : Nat) (b : Bool) (j : Nat) :
    (BitRam.mk (setRamBit m k b) n).bit j = if j = k then b else (BitRam.mk m n).bit j := by
  simp only [BitRam.bit_mk, setRamBit, Memory.read_write h.1]
  by_cases ha : j / 8 = k / 8
  · rw [if_pos ha, getLsbD_setByteBit _ _ _ _ (by omega), ha]
    by_cases hj : j = k
    · simp [hj]
    · rw [if_neg hj, if_neg (by omega)]
  · rw [if_neg ha, if_neg (fun hj => ha (by rw [hj]))]

theorem setRamBits_wf {m : Memory} (h : Memory.wf m) (k : Nat) (bs : List Bool) : Memory.wf (setRamBits m k bs) := by
  induction bs generalizing m k with
  | nil => exact h
  | cons b bs ih => exact ih (setRamBit_wf h k b) (k + 1)

theorem setRamBits_range {m : Memory} {n : Nat} (h : ∀ c ∈ m, c.1 < n) (k : Nat) (bs : List Bool)
    (hk : k + bs.length ≤ 8 * n) : ∀ c ∈ setRamBits m k bs, c.1 < n := by
  induction bs generalizing m k with
  | nil => exact h
  | cons b bs ih =>
    rw [List.length_cons] at hk
    exact ih (Memory.write_range h (by omega) _) (k + 1) (by omega)

/-- Storing bits leaves every byte before the first and after the last of them. -/
theorem read_setRamBits_outside {m : Memory} (h : Memory.wf m) (k : Nat) (bs : List Bool) {a : Nat}
    (ha : 8 * a + 7 < k ∨ k + bs.length ≤ 8 * a) : Memory.read (setRamBits m k bs) a = Memory.read m a := by
  induction bs generalizing m k with
  | nil => rfl
  | cons b bs ih =>
    rw [List.length_cons] at ha
    rw [setRamBits, ih (setRamBit_wf h k b) (k + 1) (by omega), read_setRamBit_ne h k b (by omega)]

/-- After storing bits from k on, bit k + i is the i-th of them, and every bit outside is as before. -/
theorem bit_setRamBits {m : Memory} (h : Memory.wf m) (n : BitVec 16) (k : Nat) (bs : List Bool) (j : Nat) :
    (BitRam.mk (setRamBits m k bs) n).bit j =
      if k ≤ j then bs[j - k]?.getD ((BitRam.mk m n).bit j) else (BitRam.mk m n).bit j := by
  induction bs generalizing m k with
  | nil => simp [setRamBits]
  | cons b bs ih =>
    rw [setRamBits, ih (setRamBit_wf h k b) (k + 1), bit_setRamBit h]
    rcases Nat.lt_trichotomy j k with hj | rfl | hj
    · rw [if_neg (by omega), if_neg (by omega), if_neg (by omega)]
    · simp
    · rw [if_pos (by omega), if_neg (by omega), if_pos (by omega), show j - k = (j - (k + 1)) + 1 by omega,
        List.getElem?_cons_succ]

theorem BitRam.storeAt_len (r : BitRam) (k : Nat) (bs : List Bool) (h : k + bs.length < 65536) :
    (r.storeAt k bs).len.toNat = k + bs.length := by
  simp [BitRam.storeAt, BitVec.toNat_ofNat, Nat.mod_eq_of_lt h]

theorem BitRam.bit_storeAt {r : BitRam} (h : Memory.wf r.ram) (k : Nat) (bs : List Bool) (j : Nat) :
    (r.storeAt k bs).bit j = if k ≤ j then bs[j - k]?.getD (r.bit j) else r.bit j :=
  bit_setRamBits h _ k bs j

/-- Storing bits that end at or below 32768 keeps a bit RAM well formed. -/
theorem BitRam.storeAt_ok {r : BitRam} (h : r.Ok) (k : Nat) (bs : List Bool) (hk : k + bs.length ≤ 32768) :
    (r.storeAt k bs).Ok where
  canonical := setRamBits_wf h.canonical k bs
  inRange := setRamBits_range h.inRange k bs (by omega)
  lenLe := by rw [BitRam.storeAt_len r k bs (by omega)]; exact hk

theorem BitRam.empty_ok : BitRam.empty.Ok := ⟨Memory.wf_nil, by simp [BitRam.empty], by simp [BitRam.empty]⟩

theorem BitRam.bitm_of_lt {r : BitRam} {k : Nat} (h : k < r.len.toNat) : r.bitm k = r.bit k := by
  simp [BitRam.bitm, h]

theorem BitRam.bitm_of_le {r : BitRam} {k : Nat} (h : r.len.toNat ≤ k) : r.bitm k = false := by
  simp [BitRam.bitm, Nat.not_lt.2 h]

theorem BitRam.getLsbD_byteAt (r : BitRam) (k j : Nat) (hj : j < 8) : (r.byteAt k).getLsbD j = r.bitm (k + (7 - j)) :=
  getLsbD_byteOfBits _ j hj

@[simp] theorem BitRam.length_bits (r : BitRam) : r.bits.length = r.len.toNat := by simp [BitRam.bits]

theorem BitRam.getElem?_bits (r : BitRam) (k : Nat) (h : k < r.len.toNat) : r.bits[k]? = some (r.bit k) := by
  simp [BitRam.bits, h]

/-- Bit j of word w of a byte-packed window (20_memory.md R73). -/
theorem BitRam.getLsbD_window (r : BitRam) (w j : Nat) (hj : j < 32) :
    (r.window w).getLsbD j = r.bitm (32 * w + 8 * (j / 8) + (7 - j % 8)) := by
  simp only [BitRam.window, BitVec.getLsbD_append]
  have hd : j / 8 = 0 ∨ j / 8 = 1 ∨ j / 8 = 2 ∨ j / 8 = 3 := by omega
  obtain h | h | h | h := hd <;>
    simp only [h, show j < 8 ↔ j / 8 = 0 by omega, show j - 8 < 8 ↔ j / 8 ≤ 1 by omega,
      show j - 8 - 8 < 8 ↔ j / 8 ≤ 2 by omega] <;>
    simp <;> rw [BitRam.getLsbD_byteAt _ _ _ (by omega)] <;> congr 1 <;> omega

end Sys2Proof.Machine
end

