-- ==== Sys2Proof/Laws/PerInstr.lean ====
section
/-! SUPPORT. What is said of every command as syntax, one lemma per constructor: its fields are well formed, its row of the
opcode map gives it back, and its word has the fixed bits of its format. -/

namespace Sys2Proof.Laws.EncodedWord

/-- The command's fields are well formed (30_encoding.md R102), its row of R104 filled with them is the command, and its
word matches the row's mask (R105). -/
def Statement (i : Instr) : Prop :=
  i.wellFormed = true ∧ Instr.ofOpcode i.opcode i.fields = some i ∧ encode i &&& i.format.mask = zext i.opcode

/-- The fixed bits of an encoded word: those of OP are OP's, and those outside it are 0 if the fields there are. -/
theorem masked_toWord {op : Byte} {f : Fields} {m : Word}
    (h : ∀ j, j < 32 → ((f.toWord op).getLsbD j && m.getLsbD j) = (zext op).getLsbD j) : f.toWord op &&& m = zext op :=
  BitVec.eq_of_getLsbD_eq fun j hj => by rw [BitVec.getLsbD_and, h j hj]

theorem nop : Statement .nop :=
  ⟨by decide, rfl, by decide⟩

theorem gfMul (a : Byte) (b : Byte) : Statement (.gfMul a b) :=
  ⟨by simp [Instr.wellFormed, Fields.wellFormed, Instr.fields, Instr.format, Format.usesRd, Format.usesRa, Format.usesRb,
    Format.usesI1, Format.usesI2], rfl, masked_toWord fun j hj => by
    rw [Fields.getLsbD_toWord _ _ _ hj]; interval_cases j <;> simp [Instr.fields, Instr.opcode, Instr.format, Format.mask]⟩

theorem gfDiv (a : Byte) (b : Byte) : Statement (.gfDiv a b) :=
  ⟨by simp [Instr.wellFormed, Fields.wellFormed, Instr.fields, Instr.format, Format.usesRd, Format.usesRa, Format.usesRb,
    Format.usesI1, Format.usesI2], rfl, masked_toWord fun j hj => by
    rw [Fields.getLsbD_toWord _ _ _ hj]; interval_cases j <;> simp [Instr.fields, Instr.opcode, Instr.format, Format.mask]⟩

theorem gfInv (a : Byte) : Statement (.gfInv a) :=
  ⟨by simp [Instr.wellFormed, Fields.wellFormed, Instr.fields, Instr.format, Format.usesRd, Format.usesRa, Format.usesRb,
    Format.usesI1, Format.usesI2], rfl, masked_toWord fun j hj => by
    rw [Fields.getLsbD_toWord _ _ _ hj]; interval_cases j <;> simp [Instr.fields, Instr.opcode, Instr.format, Format.mask]⟩

theorem pAdd (rd : PReg) (ra : PReg) (rb : PReg) : Statement (.pAdd rd ra rb) :=
  ⟨by simp [Instr.wellFormed, Fields.wellFormed, Instr.fields, Instr.format, Format.usesRd, Format.usesRa, Format.usesRb,
    Format.usesI1, Format.usesI2], rfl, masked_toWord fun j hj => by
    rw [Fields.getLsbD_toWord _ _ _ hj]; interval_cases j <;> simp [Instr.fields, Instr.opcode, Instr.format, Format.mask]⟩

theorem pMul (rd : PReg) (ra : PReg) (rb : PReg) : Statement (.pMul rd ra rb) :=
  ⟨by simp [Instr.wellFormed, Fields.wellFormed, Instr.fields, Instr.format, Format.usesRd, Format.usesRa, Format.usesRb,
    Format.usesI1, Format.usesI2], rfl, masked_toWord fun j hj => by
    rw [Fields.getLsbD_toWord _ _ _ hj]; interval_cases j <;> simp [Instr.fields, Instr.opcode, Instr.format, Format.mask]⟩

theorem pRem (rd : PReg) (ra : PReg) (rb : PReg) : Statement (.pRem rd ra rb) :=
  ⟨by simp [Instr.wellFormed, Fields.wellFormed, Instr.fields, Instr.format, Format.usesRd, Format.usesRa, Format.usesRb,
    Format.usesI1, Format.usesI2], rfl, masked_toWord fun j hj => by
    rw [Fields.getLsbD_toWord _ _ _ hj]; interval_cases j <;> simp [Instr.fields, Instr.opcode, Instr.format, Format.mask]⟩

theorem pMono (rd : PReg) (c : Byte) (k : Byte) : Statement (.pMono rd c k) :=
  ⟨by simp [Instr.wellFormed, Fields.wellFormed, Instr.fields, Instr.format, Format.usesRd, Format.usesRa, Format.usesRb,
    Format.usesI1, Format.usesI2], rfl, masked_toWord fun j hj => by
    rw [Fields.getLsbD_toWord _ _ _ hj]; interval_cases j <;> simp [Instr.fields, Instr.opcode, Instr.format, Format.mask]⟩

theorem pGen (rd : PReg) (n : Byte) : Statement (.pGen rd n) :=
  ⟨by simp [Instr.wellFormed, Fields.wellFormed, Instr.fields, Instr.format, Format.usesRd, Format.usesRa, Format.usesRb,
    Format.usesI1, Format.usesI2], rfl, masked_toWord fun j hj => by
    rw [Fields.getLsbD_toWord _ _ _ hj]; interval_cases j <;> simp [Instr.fields, Instr.opcode, Instr.format, Format.mask]⟩

theorem pRsenc (rd : PReg) (ra : PReg) (n : Byte) : Statement (.pRsenc rd ra n) :=
  ⟨by simp [Instr.wellFormed, Fields.wellFormed, Instr.fields, Instr.format, Format.usesRd, Format.usesRa, Format.usesRb,
    Format.usesI1, Format.usesI2], rfl, masked_toWord fun j hj => by
    rw [Fields.getLsbD_toWord _ _ _ hj]; interval_cases j <;> simp [Instr.fields, Instr.opcode, Instr.format, Format.mask]⟩

theorem bvClear : Statement .bvClear :=
  ⟨by decide, rfl, by decide⟩

theorem bvAppend (n : Byte) : Statement (.bvAppend n) :=
  ⟨by simp [Instr.wellFormed, Fields.wellFormed, Instr.fields, Instr.format, Format.usesRd, Format.usesRa, Format.usesRb,
    Format.usesI1, Format.usesI2], rfl, masked_toWord fun j hj => by
    rw [Fields.getLsbD_toWord _ _ _ hj]; interval_cases j <;> simp [Instr.fields, Instr.opcode, Instr.format, Format.mask]⟩

theorem bvAt : Statement .bvAt :=
  ⟨by decide, rfl, by decide⟩

theorem bvByteat : Statement .bvByteat :=
  ⟨by decide, rfl, by decide⟩

theorem eccInterleave : Statement .eccInterleave :=
  ⟨by decide, rfl, by decide⟩

theorem gridClear : Statement .gridClear :=
  ⟨by decide, rfl, by decide⟩

theorem gridStruct : Statement .gridStruct :=
  ⟨by decide, rfl, by decide⟩

theorem gridMeta (m : Byte) : Statement (.gridMeta m) :=
  ⟨by simp [Instr.wellFormed, Fields.wellFormed, Instr.fields, Instr.format, Format.usesRd, Format.usesRa, Format.usesRb,
    Format.usesI1, Format.usesI2], rfl, masked_toWord fun j hj => by
    rw [Fields.getLsbD_toWord _ _ _ hj]; interval_cases j <;> simp [Instr.fields, Instr.opcode, Instr.format, Format.mask]⟩

theorem gridData (m : Byte) : Statement (.gridData m) :=
  ⟨by simp [Instr.wellFormed, Fields.wellFormed, Instr.fields, Instr.format, Format.usesRd, Format.usesRa, Format.usesRb,
    Format.usesI1, Format.usesI2], rfl, masked_toWord fun j hj => by
    rw [Fields.getLsbD_toWord _ _ _ hj]; interval_cases j <;> simp [Instr.fields, Instr.opcode, Instr.format, Format.mask]⟩

theorem gridBuild (m : Byte) : Statement (.gridBuild m) :=
  ⟨by simp [Instr.wellFormed, Fields.wellFormed, Instr.fields, Instr.format, Format.usesRd, Format.usesRa, Format.usesRb,
    Format.usesI1, Format.usesI2], rfl, masked_toWord fun j hj => by
    rw [Fields.getLsbD_toWord _ _ _ hj]; interval_cases j <;> simp [Instr.fields, Instr.opcode, Instr.format, Format.mask]⟩

theorem gridScore (m : Byte) : Statement (.gridScore m) :=
  ⟨by simp [Instr.wellFormed, Fields.wellFormed, Instr.fields, Instr.format, Format.usesRd, Format.usesRa, Format.usesRb,
    Format.usesI1, Format.usesI2], rfl, masked_toWord fun j hj => by
    rw [Fields.getLsbD_toWord _ _ _ hj]; interval_cases j <;> simp [Instr.fields, Instr.opcode, Instr.format, Format.mask]⟩

theorem maskSearch : Statement .maskSearch :=
  ⟨by decide, rfl, by decide⟩

end Sys2Proof.Laws.EncodedWord
end

