-- ==== Sys2Proof/Laws/Poly.lean ====
section
/-! SUPPORT. The laws of polynomials as coefficient lists: what each operation does to coefficient k and to the length, and what
a polynomial register holds after a result is written. -/

namespace Sys2Proof.Machine

/-! ## Products with zero -/

@[simp] theorem gfmul_zero_right (a : Byte) : gfmul a 0#8 = 0#8 := by simp [gfmul]
@[simp] theorem gfmul_zero_left (b : Byte) : gfmul 0#8 b = 0#8 := by simp [gfmul]

/-- EXP has no zero in its first 255 entries (41_gf256.md R150). -/
theorem expAt_ne_zero : ∀ i, i < 255 → expAt i ≠ 0#8 := by decide +kernel

theorem gfmul_ne_zero {a b : Byte} (ha : a ≠ 0#8) (hb : b ≠ 0#8) : gfmul a b ≠ 0#8 := by
  have h : ¬ (a = 0 ∨ b = 0) := not_or.2 ⟨ha, hb⟩
  rw [gfmul, if_neg h]
  exact expAt_ne_zero _ (Nat.mod_lt _ (by decide))

namespace Poly

/-! ## Normalization -/

/-- Dropping zero leading terms changes no coefficient (42_gfpoly.md R170). -/
@[simp] theorem getD_normalize (p : Poly) (k : Nat) : (normalize p).getD k 0#8 = p.getD k 0#8 := by
  induction p generalizing k with
  | nil => rfl
  | cons c cs ih =>
    unfold normalize
    split
    · next h =>
      rw [h] at ih
      have ih : ∀ k, 0#8 = cs.getD k 0#8 := fun k => List.getD_nil.symm.trans (ih k)
      split <;> cases k <;>
        simp [-List.getD_eq_getElem?_getD, List.getD_cons_zero, List.getD_cons_succ, ← ih, *]
    · next d ds h =>
      rw [h] at ih
      cases k <;> simp_all [-List.getD_eq_getElem?_getD, List.getD_cons_zero, List.getD_cons_succ]

theorem length_normalize_le (p : Poly) : (normalize p).length ≤ p.length := by
  induction p with
  | nil => simp [normalize]
  | cons c cs ih =>
    unfold normalize
    split
    · split <;> simp
    · next d ds h => rw [h] at ih; simpa using ih

/-- A normalized polynomial is empty or has a nonzero highest coefficient (42_gfpoly.md R170). -/
def Normal (p : Poly) : Prop := p ≠ [] → p.getD (p.length - 1) 0#8 ≠ 0

theorem normal_nil : Normal [] := fun h => absurd rfl h

theorem normal_normalize (p : Poly) : Normal (normalize p) := by
  induction p with
  | nil => exact normal_nil
  | cons c cs ih =>
    unfold normalize
    split
    · split
      · exact normal_nil
      · next h => exact fun _ => h
    · next d ds h => rw [h] at ih; exact fun _ => ih (by simp)

/-- A normalized polynomial is zero exactly when every coefficient is. -/
theorem normal_eq_nil {p : Poly} (h : Normal p) : p = [] ↔ ∀ k, p.getD k 0#8 = 0#8 :=
  ⟨fun hp k => by simp [hp], fun hk => by_contra fun hp => h hp (hk _)⟩

/-- Past the length every coefficient is 0. -/
theorem getD_of_length_le {p : Poly} {k : Nat} (h : p.length ≤ k) : p.getD k 0#8 = 0#8 := List.getD_eq_default _ _ h

/-! ## Sum, multiple, shift, product -/

@[simp] theorem getD_addRaw (a b : Poly) (k : Nat) : (addRaw a b).getD k 0#8 = a.getD k 0#8 ^^^ b.getD k 0#8 := by
  induction a generalizing b k with
  | nil => simp [addRaw, -List.getD_eq_getElem?_getD]
  | cons x xs ih =>
    cases b with
    | nil => simp [addRaw, -List.getD_eq_getElem?_getD]
    | cons y ys =>
      cases k with
      | zero => rfl
      | succ k => exact ih ys k

@[simp] theorem length_addRaw (a b : Poly) : (addRaw a b).length = max a.length b.length := by
  induction a generalizing b with
  | nil => simp [addRaw]
  | cons x xs ih => cases b with
    | nil => simp [addRaw]
    | cons y ys => simp [addRaw, ih]

@[simp] theorem getD_add (a b : Poly) (k : Nat) : (add a b).getD k 0#8 = a.getD k 0#8 ^^^ b.getD k 0#8 := by
  rw [add, getD_normalize, getD_addRaw]

theorem length_add_le (a b : Poly) : (add a b).length ≤ max a.length b.length :=
  Nat.le_trans (length_normalize_le _) (Nat.le_of_eq (length_addRaw a b))

@[simp] theorem getD_scale (q : Byte) (p : Poly) (k : Nat) : (scale q p).getD k 0#8 = gfmul q (p.getD k 0#8) := by
  by_cases h : k < p.length <;> simp [scale, h]

@[simp] theorem length_scale (q : Byte) (p : Poly) : (scale q p).length = p.length := by simp [scale]

@[simp] theorem getD_shift (n : Nat) (p : Poly) (k : Nat) :
    (shift n p).getD k 0#8 = if k < n then 0#8 else p.getD (k - n) 0#8 := by
  by_cases h : k < n
  · simp [shift, h, List.getElem?_append_left]
  · simp [shift, h, List.getElem?_append_right, Nat.not_lt.1 h]

@[simp] theorem length_shift (n : Nat) (p : Poly) : (shift n p).length = n + p.length := by simp [shift]

/-- Coefficient k of a product, by the first factor's lowest coefficient (42_gfpoly.md R174). -/
theorem getD_mulRaw_cons (a : Byte) (as bs : Poly) (k : Nat) :
    (mulRaw (a :: as) bs).getD k 0#8 = gfmul a (bs.getD k 0#8) ^^^ (if k = 0 then 0#8 else (mulRaw as bs).getD (k - 1) 0#8) := by
  rw [mulRaw, getD_addRaw, getD_scale]
  cases k <;> simp

theorem length_mulRaw (a b : Poly) (ha : a ≠ []) (hb : b ≠ []) : (mulRaw a b).length = a.length + b.length - 1 := by
  induction a with
  | nil => exact absurd rfl ha
  | cons x xs ih =>
    have := List.length_pos_iff.2 hb
    by_cases hx : xs = []
    · subst hx; simp [mulRaw]; omega
    · have := List.length_pos_iff.2 hx
      simp [mulRaw, ih hx]; omega

/-! ## Remainder -/

/-- The lengths of the remainder loop: with enough passes the result is shorter than the divisor (42_gfpoly.md R175). -/
theorem length_remLoop {d : Poly} (hstep : ∀ r : Poly, d.length ≤ r.length → (remStep r d).length < r.length) :
    ∀ fuel r, r.length < fuel + d.length → (remLoop fuel r d).length < d.length := by
  intro fuel
  induction fuel with
  | zero => intro r hr; simpa [remLoop] using hr
  | succ n ih =>
    intro r hr
    rw [remLoop]
    split
    · assumption
    · next h => exact ih _ (by have := hstep r (by omega); omega)

end Poly

/-! ## Polynomial registers -/

theorem PolyReg.lengthOk_iff {p : PolyReg} : p.lengthOk = true ↔ p.len.toNat ≤ 256 := by
  rw [PolyReg.lengthOk, decide_eq_true_iff]; rfl

theorem PolyReg.normal_value (p : PolyReg) : Poly.Normal p.value := Poly.normal_normalize _

theorem PolyReg.length_value_le (p : PolyReg) : p.value.length ≤ 256 :=
  Nat.le_trans (Poly.length_normalize_le _) (by simp)

/-- Coefficient k of a register's value (10_state.md R42). -/
theorem PolyReg.getD_value (p : PolyReg) (k : Nat) :
    p.value.getD k 0#8 = if k < p.len.toNat then p.c.toList.getD k 0#8 else 0#8 := by
  rw [PolyReg.value, Poly.getD_normalize]
  by_cases h : k < p.len.toNat <;> simp [h]

@[simp] theorem PolyReg.getElem_ofPoly (r : Poly) (k : Nat) (h : k < 256) : (PolyReg.ofPoly r).c[k] = r.getD k 0#8 := by
  simp [PolyReg.ofPoly]

theorem PolyReg.len_ofPoly {r : Poly} (h : r.length ≤ 256) : (PolyReg.ofPoly r).len.toNat = r.length := by
  simp only [PolyReg.ofPoly, BitVec.toNat_ofNat]; omega

/-- `readpoly` gives the register's value unless its length register is above 256 (42_gfpoly.md R170). -/
theorem State.readPoly_eq_some {s : State} {p : PReg} (h : s.polys[p].len.toNat ≤ 256) :
    s.readPoly p = some s.polys[p].value := if_pos (PolyReg.lengthOk_iff.2 h)

theorem State.readPoly_eq_none {s : State} {p : PReg} (h : 256 < s.polys[p].len.toNat) : s.readPoly p = none :=
  if_neg (by rw [PolyReg.lengthOk_iff]; omega)

end Sys2Proof.Machine
end

