-- ==== Sys2Proof/Tests/Slice0.lean ====
section
/-! SUPPORT. Tests of the model. Every expected result is the spec's: 95_test_vectors.md (V-...), an example of the rule cited,
or hand calculation from it. -/

namespace Sys2Proof.Tests

open Sys2Proof.Machine

/-! ## Helpers -/

/-- What `f` reads of the next state, if there is one. -/
def see {α : Type} (o : Outcome) (f : State → α) : Option α :=
  match o with
  | .next s => some (f s)
  | .fault _ => none
  | .refused _ => none

/-- The step that executes the command word w. -/
def runs (w : Nat) (s : State) : Outcome := step (s.withFetchWord 32 w)

/-- The step of one host access of a whole word. -/
def access (off : BitVec 20) (d : Direction) (s : State) : Outcome :=
  step { s with turns := [.access ⟨off, .bits32, 0xF, d⟩] }

/-- What a host read returns. -/
def reads (off : BitVec 20) (s : State) : Option Word := see (access off .read s) (·.rdata)

/-- The state with a polynomial loaded (`p.load`, 30_encoding.md R121). -/
def withPoly (p : PReg) (r : Poly) (s : State) : State := { s with polys := s.polys.set p (.ofPoly r) }

/-- The state with the given bytes in BV. -/
def withBv (bytes : List Byte) (s : State) : State :=
  { s with bv := ⟨(List.range bytes.length).zip bytes, .ofNat 16 (8 * bytes.length)⟩ }

/-- The state with the given bytes in CW. -/
def withCw (bytes : List Byte) (s : State) : State :=
  { s with cw := ⟨(List.range bytes.length).zip bytes, .ofNat 16 (8 * bytes.length)⟩ }

/-- The state with a grid. -/
def withGrid (v : BitVec 6) (g : Grid) (s : State) : State := { s with gridVer := v, grid := g }

/-- Row y of a grid as a number, column 0 the most significant bit (V-SYM-1). -/
def rowOf (g : Grid) (n y : Nat) : Nat := (List.range n).foldl (fun r x => 2 * r + (g.get x y).val.toNat) 0

/-- The status word of the step's next state. -/
def statusAfter (o : Outcome) : Option Word := see o (·.statusWord)

/-- The 26 codewords of V-ECC-1. -/
def stream26 : List Byte :=
  [0x10, 0x20, 0x0C, 0x56, 0x61, 0x80, 0xEC, 0x11, 0xEC, 0x11, 0xEC, 0x11, 0xEC] ++
  [0x11, 0xEC, 0x11, 0xA5, 0x24, 0xD4, 0xC1, 0xED, 0x36, 0xC7, 0x87, 0x2C, 0x55]

/-! ## Well-formed fields: the check refuses each ill-formed term (30_encoding.md R101, R102) -/

theorem test_wellFormed_accepts_zero_fields : Fields.wellFormed .n {} = true := by decide
theorem test_wellFormed_accepts_used_fields : Fields.wellFormed .prrr { rd := 3, ra := 2, rb := 1 } = true := by decide
theorem test_wellFormed_refuses_rsv : Fields.wellFormed .prrr { rsv := 1 } = false := by decide
theorem test_wellFormed_refuses_rd : Fields.wellFormed .n { rd := 1 } = false := by decide
theorem test_wellFormed_refuses_ra : Fields.wellFormed .pri { ra := 1 } = false := by decide
theorem test_wellFormed_refuses_rb : Fields.wellFormed .prri { rb := 2 } = false := by decide
theorem test_wellFormed_refuses_i1 : Fields.wellFormed .prrr { i1 := 1 } = false := by decide
theorem test_wellFormed_refuses_i2 : Fields.wellFormed .i { i2 := 1 } = false := by decide

/-! ## Decoding: words written out bit by bit from the patterns of R102 and the map of R104 -/

theorem test_decode_nop : decode 0b00000000000000000000000000000000 = .ok .nop := by decide
theorem test_decode_gfMul : decode 0b11001010010100110000000000010000 = .ok (.gfMul 0x53 0xCA) := by decide
theorem test_decode_gfDiv : decode 0b11001010100011110000000000010001 = .ok (.gfDiv 0x8F 0xCA) := by decide
theorem test_decode_gfInv : decode 0b00000000010100110000000000010010 = .ok (.gfInv 0x53) := by decide
theorem test_decode_pAdd : decode 0b00000000000000000010111100100000 = .ok (.pAdd 3 3 2) := by decide
theorem test_decode_pMul : decode 0b00000000000000000010001100100001 = .ok (.pMul 3 0 2) := by decide
theorem test_decode_pRem : decode 0b00000000000000000001111100100010 = .ok (.pRem 3 3 1) := by decide
theorem test_decode_pMono : decode 0b00001010000000010000001000100011 = .ok (.pMono 2 1 10) := by decide
theorem test_decode_pGen : decode 0b00000000000010100000000100101000 = .ok (.pGen 1 10) := by decide
theorem test_decode_pRsenc : decode 0b00000000000010100000000100101001 = .ok (.pRsenc 1 0 10) := by decide
theorem test_decode_bvClear : decode 0b00000000000000000000000000110000 = .ok .bvClear := by decide
theorem test_decode_bvAppend : decode 0b00000000001000000000000000110001 = .ok (.bvAppend 32) := by decide
theorem test_decode_bvAt : decode 0b00000000000000000000000000110010 = .ok .bvAt := by decide
theorem test_decode_bvByteat : decode 0b00000000000000000000000000110011 = .ok .bvByteat := by decide
theorem test_decode_eccInterleave : decode 0b00000000000000000000000000111000 = .ok .eccInterleave := by decide
theorem test_decode_gridClear : decode 0b00000000000000000000000001000000 = .ok .gridClear := by decide
theorem test_decode_gridStruct : decode 0b00000000000000000000000001000001 = .ok .gridStruct := by decide
theorem test_decode_gridMeta : decode 0b00000000000000100000000001000010 = .ok (.gridMeta 2) := by decide
theorem test_decode_gridData : decode 0b00000000000000110000000001000011 = .ok (.gridData 3) := by decide
theorem test_decode_gridBuild : decode 0b00000000000001010000000001000100 = .ok (.gridBuild 5) := by decide
theorem test_decode_gridScore : decode 0b00000000000001110000000001001000 = .ok (.gridScore 7) := by decide
theorem test_decode_maskSearch : decode 0b00000000000000000000000001001001 = .ok .maskSearch := by decide

/-- V-ERR-1: a reserved opcode. -/
theorem test_decode_reserved_opcode : decode 0x000000FF = .error (.reservedOpcode 0xFF) := by decide
/-- V-ERR-2 to V-ERR-5: a bit that the format requires to be zero. -/
theorem test_decode_reserved_field :
    [0x00000100, 0x00004020, 0xCA530110, 0x0A010623].map decode = [0x00, 0x20, 0x10, 0x23].map fun op => .error (.nonzeroReservedField op) := by
  decide
/-- The example of 30_encoding.md R110. -/
theorem test_encode_pRsenc : encode (.pRsenc 1 0 10) = 0x000A0129 := by decide

/-! ## The commands, one or two steps each -/

/-- 40_command.md R138. -/
theorem test_nop : statusAfter (runs 0x00000000 .reset) = some 0x00000002 := by decide
/-- V-GF-2. -/
theorem test_gfMul : [0xCA530010, 0x80020010, 0x00070010, 0xFFFF0010].map (fun w => see (runs w .reset) (·.result)) =
    [some 0x8F, some 0x1D, some 0x00, some 0xE2] := by decide
/-- V-GF-3. -/
theorem test_gfDiv : [0xCA8F0011, 0x02010011, 0x05000011, 0x01050011].map (fun w => see (runs w .reset) (·.result)) =
    [some 0x53, some 0x8E, some 0x00, some 0x05] := by decide
/-- V-ERR-7, and the last row of V-GF-3. -/
theorem test_gfDiv_by_zero : [0x00050011, 0x00000011].map (fun w => statusAfter (runs w .reset)) =
    [some 0x00000304, some 0x00000304] := by decide
/-- V-GF-4. -/
theorem test_gfInv : [0x00010012, 0x00530012, 0x00FF0012].map (fun w => see (runs w .reset) (·.result)) =
    [some 0x01, some 0x8C, some 0xFD] := by decide
/-- V-ERR-8. -/
theorem test_gfInv_of_zero : statusAfter (runs 0x00000012 .reset) = some 0x00000404 := by decide
/-- V-POLY-1, rows 2 and 4. -/
theorem test_pAdd : see (runs 0x00001220 (withPoly 1 [1, 2] (withPoly 0 [1, 0, 7] .reset))) (fun s => (s.polys[2].value, s.polys[2].len)) =
      some ([0, 2, 7], 3) ∧
    see (runs 0x00001020 (withPoly 1 [0, 0, 3] (withPoly 0 [1, 2, 3] .reset))) (fun s => (s.polys[0].value, s.polys[0].len)) =
      some ([1, 2], 2) := by decide
/-- V-ERR-11: PLEN0 = 257. -/
theorem test_pAdd_length : statusAfter (runs 0x00000120 (State.writePlen .reset 0 257)) = some 0x00000704 := by decide
/-- V-POLY-2, row 2. -/
theorem test_pMul : see (runs 0x00001221 (withPoly 1 [3, 1] (withPoly 0 [2, 1] .reset))) (fun s => (s.polys[2].value, s.polys[2].len)) =
    some ([6, 1, 1], 3) := by decide
/-- V-ERR-10. -/
theorem test_pMul_overflow :
    statusAfter (runs 0x00001021 (withPoly 1 (Poly.monomial 1 128) (withPoly 0 (Poly.monomial 1 128) .reset))) = some 0x00000604 := by
  decide +kernel
/-- V-POLY-3, rows 5 and 6. -/
theorem test_pRem : see (runs 0x00001222 (withPoly 1 [2, 0, 1] (withPoly 0 [0, 0, 0, 1] .reset))) (·.polys[2].value) = some [0, 2] ∧
    see (runs 0x00001222 (withPoly 1 [7, 1] (withPoly 0 [5, 4, 3, 2, 1] .reset))) (·.polys[2].value) = some [252] := by decide
/-- V-ERR-9, with all-zero coefficients. -/
theorem test_pRem_zero_divisor : statusAfter (runs 0x00001022 (withPoly 1 [0, 0, 0] (withPoly 0 [1] .reset))) = some 0x00000504 := by
  decide
/-- V-POLY-4. -/
theorem test_pMono : [0x05000223, 0x00070223, 0x03010223].map (fun w => see (runs w .reset) (·.polys[2].value)) =
    [some [], some [7], some [0, 0, 0, 1]] := by decide
/-- V-RS-1, n = 7 and n = 0. -/
theorem test_pGen : see (runs 0x00070128 .reset) (·.polys[1].value) = some [117, 68, 11, 164, 154, 122, 127, 1] ∧
    see (runs 0x00000128 .reset) (·.polys[1].value) = some [1] := by decide
/-- V-RS-2, row 1 and row 3. -/
theorem test_pRsenc : see (runs 0x00020129 (withPoly 0 [1] .reset)) (·.polys[1].value) = some [2, 3] ∧
    see (runs 0x00000129 (withPoly 0 [0x34, 0x12] .reset)) (·.polys[1].value) = some [] := by decide
/-- V-RS-2, rows 4 and 6. -/
theorem test_rsEcc : rsEcc [0, 0, 1] 2 = [3, 2] ∧ rsEcc [0xFF] 1 = [0xFF] := by decide
/-- V-BV-3: the length becomes 0 and the window reads 0. -/
theorem test_bvClear : see (runs 0x00000030 (withBv [0x10, 0x20] .reset)) (fun s => (s.bv.len, s.bv.window 0)) = some (0, 0) := by decide
/-- V-BV-1: 12 bits of 0xABC in an empty vector. -/
theorem test_bvAppend : see (runs 0x000C0031 { State.reset with arg0 := 0xABC }) (fun s => (s.bv.len, s.bv.window 0)) =
    some (12, 0x0000C0AB) := by decide
/-- V-ERR-14 and V-ERR-12. -/
theorem test_bvAppend_errors : statusAfter (runs 0x00210031 .reset) = some 0x00000A04 ∧
    statusAfter (runs 0x00010031 { State.reset with bv := ⟨[], 32768⟩ }) = some 0x00000804 := by decide
/-- V-BV-2: bits 3, 0, 31 of 10 20 0C 56, and bit 32 past the end. -/
theorem test_bvAt : [3, 0, 31].map (fun i => see (runs 0x00000032 { withBv [0x10, 0x20, 0x0C, 0x56] .reset with arg0 := i }) (·.result)) =
      [some 1, some 0, some 0] ∧
    statusAfter (runs 0x00000032 { withBv [0x10, 0x20, 0x0C, 0x56] .reset with arg0 := 32 }) = some 0x00000904 := by decide
/-- V-BV-2: the unaligned bytes at 4 and 28. -/
theorem test_bvByteat :
    [4, 28, 31].map (fun i => see (runs 0x00000033 { withBv [0x10, 0x20, 0x0C, 0x56] .reset with arg0 := i }) (·.result)) =
      [some 0x02, some 0x60, some 0x00] := by decide
/-- V-ECC-4: two groups with uneven data counts. -/
theorem test_eccInterleave :
    see (runs 0x00000038 { withBv [1, 2, 3] .reset with g1 := .ofWord 0x00010301, g2 := .ofWord 0x00020401 })
      (fun s => (s.cw.len, s.cw.window 0, s.cw.window 1)) = some (56, 0x03030201, 0x000A020B) := by decide
/-- V-ERR-15's and V-ERR-16's neighbours: G1 = 0, and 16 data codewords with 15 bytes in BV. -/
theorem test_eccInterleave_errors : statusAfter (runs 0x00000038 .reset) = some 0x00000B04 ∧
    statusAfter (runs 0x00000038 { State.reset with g1 := .ofWord 0x00101A01, bv := ⟨[], 120⟩ }) = some 0x00000C04 := by decide
/-- V-SYM-2: EMPTY and SIZE of a cleared version 1. -/
theorem test_gridClear : see (runs 0x00000040 .reset) (fun s => (s.emptyCount, s.sizeWord)) = some (441, 0x00001D15) := by
  decide +kernel
/-- V-ERR-15. -/
theorem test_gridClear_version : statusAfter (runs 0x00000040 { State.reset with version := 0 }) = some 0x00000B04 ∧
    statusAfter (runs 0x00000040 { State.reset with version := 41 }) = some 0x00000B04 := by decide
/-- V-SYM-2: GRID_STRUCT for version 1. -/
theorem test_gridStruct : see (runs 0x00000041 .reset) (fun s => (s.emptyCount, s.gridWord 0 0, s.gridWord 7 0, s.gridWord 8 6, s.gridWord 8 0)) =
    some (239, 3, 2, 3, 0) := by decide +kernel
/-- 45_symbol.md R252, R255: GRID_META 2 at Medium draws FMT = 0x5E7C and the dark module (V-SYM-1's reads). -/
theorem test_gridMeta : see (runs 0x00020042 { withGrid 1 (structGrid 1) .reset with level := 1 })
      (fun s => (s.gridWord 8 0, s.gridWord 8 2, s.gridWord 8 13, s.emptyCount)) = some (2, 3, 3, 208) := by decide +kernel
/-- V-ERR-18 and V-ERR-20. -/
theorem test_gridMeta_errors : statusAfter (runs 0x00080042 (withGrid 1 .blank .reset)) = some 0x00000E04 ∧
    statusAfter (runs 0x00000042 .reset) = some 0x00001004 := by decide
/-- 45_symbol.md R258, R259: the first bit goes to (20, 20), the second to (19, 20); mask 0 inverts the first only. -/
theorem test_gridData : see (runs 0x00000043 { withGrid 1 ((structGrid 1).drawMeta 1 0 0) .reset with cw := ⟨[], 208⟩ })
      (fun s => (s.gridWord 20 20, s.gridWord 19 20)) = some (3, 2) := by decide +kernel
/-- V-ERR-19's neighbour: EMPTY 239 is not 208. -/
theorem test_gridData_capacity : statusAfter (runs 0x00020043 { withGrid 1 (structGrid 1) .reset with cw := ⟨[], 208⟩ }) =
    some 0x00000F04 := by decide +kernel
/-- V-SYM-1, rows 0, 8, 12 and 20. -/
theorem test_gridBuild : see (runs 0x00020044 { withCw stream26 .reset with level := 1 })
      (fun s => (rowOf s.grid 21 0, rowOf s.grid 21 8, rowOf s.grid 21 12, rowOf s.grid 21 20)) =
    some (0x1FCB7F, 0x17C97C, 0x03F290, 0x1FDE94) := by decide +kernel
/-- V-ERR-18's boundary: BAD_MASK is checked before BAD_CONFIG. -/
theorem test_gridBuild_mask_first : statusAfter (runs 0x00090044 { State.reset with version := 0 }) = some 0x00000E04 := by decide
/-- V-PEN-8: the structure of version 1 alone. -/
theorem test_gridScore : see (runs 0x00000048 (withGrid 1 (structGrid 1) .reset)) (·.score[0]) = some ⟨572, 723, 720, 50, 2065⟩ := by
  decide +kernel
/-- V-ERR-20. -/
theorem test_gridScore_noGrid : statusAfter (runs 0x00000048 .reset) = some 0x00001004 := by decide
/-- V-ERR-19. -/
theorem test_maskSearch_capacity : statusAfter (runs 0x00000049 { State.reset with version := 2, cw := ⟨[], 208⟩ }) =
    some 0x00000F04 := by decide
/-- V-PEN-9 and 46_mask.md R291: the least of the totals wins, and of equal totals the first. -/
theorem test_bestMask : bestUpTo (fun m => [1057, 1053, 1037, 1052, 1130, 1197, 1099, 1046].getD m (0 : Word)) 7 = 2 ∧
    bestUpTo (fun m => [9, 5, 7, 5, 5, 6, 9, 5].getD m (0 : Word)) 7 = 1 := by decide
/-- V-PEN-5: rule 1 on lines of 21 modules, written as numbers with the first module the most significant bit. -/
theorem test_run_penalty : [0x0AFAAA, 0x0AFD55, 0x1EAAAA, 0x000000, 0x1FFFFF, 0x1F07C1].map (fun n =>
      linePenalty1 ((List.range 21).map fun k => (n : BitVec 21).getLsbD (20 - k))) = [3, 4, 0, 19, 19, 12] := by decide
/-- V-PEN-5: rule 3 on lines of 21 modules, the register reading. -/
theorem test_finder_matches : [0x017400, 0x174000, 0x1FFFDD, 0x01742A, 0x02E85D, 0x0B7415, 0x1742E8, 0x0176E8].map (fun n =>
      finderMatches ((List.range 21).map fun k => (n : BitVec 21).getLsbD (20 - k))) = [1, 1, 1, 1, 2, 1, 2, 1] := by decide
/-- V-PEN-5: rule 4 for version 1. -/
theorem test_dark_penalty : [0, 198, 199, 220, 221, 242, 243, 264, 441].map (darkPenalty · 441) = [100, 10, 0, 0, 0, 0, 10, 10, 100] := by
  decide

/-! ## The tables and the bus -/

/-- V-GF-1: EXP[8], EXP[25], EXP[255], LOG[0], LOG[3], LOG[0x1D] through the windows. -/
theorem test_table_windows : [0x01020, 0x01064, 0x013FC, 0x01400, 0x0140C, 0x01474].map (reads · .reset) =
    [some 0x1D, some 0x03, some 0x01, some 0x00, some 0x19, some 0x08] := by decide
/-- 10_state.md R21 and R22: ID, and VERSION after reset. -/
theorem test_register_reads : [0x000, 0x040, 0x054].map (reads · .reset) = [some 0x51524331, some 1, some 0] := by decide
/-- V-SYM-1's reads after the build: GRID[0][0], GRID[21][0], BITMAP[0][0], BITMAP[4][4], BITMAP[12][4] of a version 1 structure. -/
theorem test_grid_windows : [0x40000, 0x40054, 0x80000, 0x81010].map (reads · (withGrid 1 (structGrid 1) .reset)) =
    [some 3, some 0, some 0, some 1] := by decide +kernel
/-- 20_memory.md R81: a reserved offset reads 0 and ignores a write. -/
theorem test_unmapped : reads 0x068 .reset = some 0 ∧ see (access 0x068 (.write 7) .reset) (·.statusWord) = some 0 := by decide
/-- 20_memory.md R76: a coefficient written through PRAM[1][2] reads back. -/
theorem test_pram_window : see (access 0x02408 (.write 0x1AB) .reset) (reads 0x02408) = some (some 0xAB) := by decide
/-- V-ERR-21: a command written while ERR = 1 is dropped; clearing STATUS clears ERR and ERRCODE and keeps ERRINFO. -/
theorem test_drop_and_clear : see (runs 0x00050011 .reset) (fun s =>
      (see (access 0x00C (.write 0x03020010) s) (fun t => (t.pending, t.lastcmd)),
        see (access 0x008 (.write 6) s) (fun t => (t.statusWord, t.errinfo)))) =
    some (some (none, 0x00050011), some (0, 0x00050011)) := by decide
/-- V-ERR-6 and PROG-4 (b): an ARG0 write while a NOP is pending. -/
theorem test_write_while_busy : see (access 0x010 (.write 5) { State.reset with pending := some 0 })
      (fun s => (s.arg0, s.errinfo, statusAfter (step s))) = some (0, 0x010, some 0x00000206) := by decide
/-- V-ERR-22: DONE and IRQ_EN raise IRQ, clearing DONE lowers it. -/
theorem test_interrupt : see (access 0x004 (.write 1) { State.reset with done := true }) (fun s => (s.irq, see (access 0x008 (.write 6) s) (·.irq))) =
    some (true, some false) := by decide
/-- 20_memory.md R72: 16-bit and misaligned accesses have no step. -/
theorem test_refused_accesses :
    (∃ r, step { State.reset with turns := [.access ⟨0x010, .bits16, 0x3, .read⟩] } = .refused r) ∧
    (∃ r, step { State.reset with turns := [.access ⟨0x012, .bits32, 0xF, .read⟩] } = .refused r) :=
  ⟨⟨.narrowAccess, rfl⟩, ⟨.misalignedAccess, rfl⟩⟩
/-- 70_reset_and_hazards.md R341: a soft reset discards the pending command; VERSION is 1 again. -/
theorem test_soft_reset : see (access 0x004 (.write 0x80000001) { State.reset with pending := some 0, version := 9, irqEn := true })
      (fun s => (s.pending, s.version, s.irqEn, s.statusWord)) = some (none, 1, false, 0) := by decide
/-- A command reaches the core through CMD: an accepted write, then the sequencer's turn (40_command.md R131, R132). -/
theorem test_command_through_the_bus : see (access 0x00C (.write 0xCA530010) .reset) (fun s => (s.pending, see (step s) (·.result))) =
    some (some 0xCA530010, some 0x8F) := by decide
/-- The words of the host's interface reach the decoder as they are numbered. -/
theorem test_decodeTableWord : decodeTableWord 32 0x00001F22 = some (.pRem 3 3 1) ∧ decodeTableWord 32 0x00000100 = none := by decide
/-- Reset memories are in canonical form; writing what an unlisted address reads as removes the cell. -/
theorem test_memory_canonical : Memory.wf State.reset.bv.ram ∧ Memory.wf State.reset.cw.ram ∧
    Memory.write (Memory.write [] 3 7) 3 0 = [] ∧ Memory.write (Memory.write [] 3 7) 1 9 = [(1, 9), (3, 7)] := by decide

/-! ## Witnesses: for every statement with hypotheses, states and operands that meet them, clause by clause -/

open Sys2Proof.Spec

/-- The state with word w pending and the given turns. -/
def busyWith (w : Word) (ts : List Turn) : State := { State.reset with pending := some w, lastcmd := w, turns := ts }

/-- The turn that reads offset off. -/
def readTurn (off : BitVec 20) : Turn := .access (wordAccess off .read)

/-- The turn that writes v to offset off. -/
def writeTurn (off : BitVec 20) (v : Word) : Turn := .access (wordAccess off (.write v))

/-- The idle state in which a read of off comes next. -/
def reading (off : BitVec 20) : State := { State.reset with turns := [readTurn off] }

/-- The idle state in which a write of v to off comes next. -/
def writing (off : BitVec 20) (v : Word) : State := { State.reset with turns := [writeTurn off v] }

theorem aligned_of_all (l : List (BitVec 20)) (h : l.all (fun off => decide (off.toNat % 4 = 0)) = true) : ∀ off ∈ l, off.toNat % 4 = 0 :=
  fun off ho => of_decide_eq_true (List.all_eq_true.1 h off ho)

theorem reading_next (off : BitVec 20) (h : off.toNat % 4 = 0) : ReadNext (reading off) off [] ∧ (reading off).pending = none :=
  ⟨⟨rfl, h⟩, rfl⟩

theorem writing_next (off : BitVec 20) (v : Word) (h : off.toNat % 4 = 0) : WriteNext (writing off v) off v [] ∧ (writing off v).pending = none :=
  ⟨⟨rfl, h⟩, rfl⟩

theorem busy_reading_next (off : BitVec 20) (h : off.toNat % 4 = 0) : ReadNext (busyWith 0 [readTurn off]) off [] ∧
    (busyWith 0 [readTurn off]).pending ≠ none := ⟨⟨rfl, h⟩, by simp [busyWith]⟩

theorem busy_writing_next (off : BitVec 20) (v : Word) (h : off.toNat % 4 = 0) : WriteNext (busyWith 0 [writeTurn off v]) off v [] ∧
    (busyWith 0 [writeTurn off v]).pending ≠ none := ⟨⟨rfl, h⟩, by simp [busyWith]⟩

theorem witness_UnmatchedWordsRaiseIllegalCmd : (∀ w : Word, (busyWith w []).pending = some w ∧ SequencerNext (busyWith w []) [] ∧
      SequencerNext (busyWith w [.sequencer]) []) ∧
    [0x000000FF, 0x00000100, 0x00004020].all (fun w => opcodeRows.all fun r => decide (w &&& r.2 ≠ r.1)) = true :=
  ⟨fun _ => ⟨rfl, .inl ⟨rfl, rfl⟩, .inr rfl⟩, by decide⟩

theorem witness_EncodeOfDecodeIsTheWord : decode 0xFFFF0010 = .ok (.gfMul 0xFF 0xFF) := by decide

theorem witness_StepRunsTheDecodedCommand : (busyWith 0x00000049 []).pending = some 0x00000049 ∧ SequencerNext (busyWith 0x00000049 []) [] ∧
    SequencerNext (busyWith 0x00000049 [.sequencer, .hardReset]) [.hardReset] ∧ decode 0x00000049 = .ok .maskSearch :=
  ⟨rfl, .inl ⟨rfl, rfl⟩, .inr rfl, by decide⟩

theorem witness_CommandWriteHasThreeOutcomes : WriteNext (busyWith 0 [writeTurn 0x00C 7]) 0x00C 7 [] ∧
    (busyWith 0 [writeTurn 0x00C 7]).pending ≠ none ∧ WriteNext (writing 0x00C 7) 0x00C 7 [] ∧ (writing 0x00C 7).pending = none ∧
    (writing 0x00C 7).err = false ∧ ∃ s : State, WriteNext s 0x00C 7 [] ∧ s.pending = none ∧ s.err = true := by
  refine ⟨⟨rfl, by decide⟩, by simp [busyWith], ⟨rfl, by decide⟩, rfl, rfl, ?_⟩
  exact ⟨{ writing 0x00C 7 with err := true }, ⟨rfl, by decide⟩, rfl, rfl⟩

theorem witness_WritesWhileBusyAreRefused : (∀ off ∈ ([0x000, 0x004, 0x008, 0x00C, 0x010, 0xFFFFC] : List (BitVec 20)), ∀ v,
      WriteNext (busyWith 0 [writeTurn off v]) off v [] ∧ (busyWith 0 [writeTurn off v]).pending ≠ none) ∧
    (0x80000000 : Word).getLsbD 31 = true ∧ (0x7FFFFFFF : Word).getLsbD 31 = false := by
  have h := aligned_of_all [0x000, 0x004, 0x008, 0x00C, 0x010, 0xFFFFC] (by decide)
  exact ⟨fun off ho v => busy_writing_next off v (h off ho), by decide, by decide⟩

theorem witness_ReadsWhileBusy : ∀ off ∈ ([0x000, 0x004, 0x008, 0x00C, 0x010, 0x018, 0xFFFFC] : List (BitVec 20)),
    ReadNext (busyWith 0 [readTurn off]) off [] ∧ (busyWith 0 [readTurn off]).pending ≠ none := by
  have h := aligned_of_all [0x000, 0x004, 0x008, 0x00C, 0x010, 0x018, 0xFFFFC] (by decide)
  exact fun off ho => busy_reading_next off (h off ho)

theorem witness_ReadsHaveNoSideEffects : ReadNext (reading 0xFFFFC) 0xFFFFC [] ∧ (reading 0xFFFFC).pending = none :=
  ⟨⟨rfl, by decide⟩, rfl⟩

/-- The offsets of the register map, with the last PLEN and the words of the last score slot. -/
def mapOffsets : List (BitVec 20) :=
  [0x000, 0x004, 0x008, 0x00C, 0x010, 0x014, 0x018, 0x02C, 0x030, 0x034, 0x040, 0x044, 0x048, 0x04C, 0x050, 0x054, 0x058, 0x05C, 0x060, 0x064] ++
  [0x2E0, 0x2E4, 0x2E8, 0x2EC, 0x2F0, 0x2F4, 0x2FC]

theorem mapOffsets_aligned : ∀ off ∈ mapOffsets, off.toNat % 4 = 0 := aligned_of_all _ (by decide)

/-- The ends of every reserved range of the register map outside the score slots. -/
def reservedOffsets : List (BitVec 20) := [0x01C, 0x038, 0x03C, 0x068, 0x1FC]

theorem reservedOffsets_aligned : ∀ off ∈ reservedOffsets, off.toNat % 4 = 0 := aligned_of_all _ (by decide)

theorem reservedOffsets_reserved : ∀ off ∈ reservedOffsets, off.toNat < 0x200 ∧ off ∉ registerOffsets := by simp [reservedOffsets, registerOffsets]

/-- The last word of every window, and the ends of every unmapped range. -/
def windowOffsets : List (BitVec 20) :=
  [0x02FFC, 0x04FFC, 0x05FFC, 0x7FFFC, 0xBFFFC, 0x00300, 0x00FFC, 0x01800, 0x01FFC, 0x03000, 0x03FFC, 0x06000, 0x3FFFC, 0xC0000, 0xFFFFC]

theorem windowOffsets_aligned : ∀ off ∈ windowOffsets, off.toNat % 4 = 0 := aligned_of_all _ (by decide)

/-- Every writable register, the ends of the writable windows, and offsets outside all of them. -/
def writeOffsets : List (BitVec 20) :=
  [0x004, 0x010, 0x020, 0x02C, 0x040, 0x044, 0x048, 0x04C, 0x050, 0x02000, 0x02FFC, 0x40000, 0x7FFFC, 0x000, 0x014, 0x01FFC, 0x03000, 0x3FFFC, 0x80000] ++
  [0xFFFFC]

theorem writeOffsets_aligned : ∀ off ∈ writeOffsets, off.toNat % 4 = 0 := aligned_of_all _ (by decide)

theorem witness_RegisterReadsFollowTheMap : (∀ off ∈ mapOffsets, ReadNext (reading off) off [] ∧ (reading off).pending = none) ∧
    (0x02C : BitVec 20).toNat = 0x020 + 4 * (3 : PReg).val ∧ (0x2E0 : BitVec 20).toNat = 0x200 + 0x20 * (7 : Fin 8).val ∧
    (0x2F0 : BitVec 20).toNat = 0x210 + 0x20 * (7 : Fin 8).val ∧ (0x2FC : BitVec 20).toNat = 0x200 + 0x20 * (7 : Fin 8).val + 4 * 7 ∧
    (reading 0x064).gridVer.toNat ≤ 40 ∧
    (∀ off ∈ reservedOffsets, ReadNext (reading off) off [] ∧ (reading off).pending = none ∧ off.toNat < 0x200 ∧ off ∉ registerOffsets) :=
  ⟨fun off ho => reading_next off (mapOffsets_aligned off ho), by decide, by decide, by decide, by decide, by decide, fun off ho =>
    ⟨(reading_next off (reservedOffsets_aligned off ho)).1, (reading_next off (reservedOffsets_aligned off ho)).2, reservedOffsets_reserved off ho⟩⟩

theorem witness_WindowReadsFollowTheMap : (∀ off ∈ windowOffsets, ReadNext (reading off) off [] ∧ (reading off).pending = none) ∧
    (0x02FFC : BitVec 20).toNat = 0x02000 + 0x400 * (3 : PReg).val + 4 * (255 : Fin 256).val ∧ (0x04FFC : BitVec 20).toNat = 0x04000 + 4 * 1023 ∧
    (0x05FFC : BitVec 20).toNat = 0x05000 + 4 * 1023 ∧ (0x7FFFC : BitVec 20).toNat = 0x40000 + 4 * (256 * 255 + 255) ∧
    (0xBFFFC : BitVec 20).toNat = 0x80000 + 4 * (256 * 255 + 255) :=
  ⟨fun off ho => reading_next off (windowOffsets_aligned off ho), by decide, by decide, by decide, by decide, by decide⟩

theorem witness_IdleWritesStoreTheirFields : (∀ off ∈ writeOffsets, ∀ v, WriteNext (writing off v) off v [] ∧ (writing off v).pending = none) ∧
    (0x7FFFFFFF : Word).getLsbD 31 = false ∧
    (0x02C : BitVec 20).toNat = 0x020 + 4 * (3 : PReg).val ∧
    (0x02FFC : BitVec 20).toNat = 0x02000 + 0x400 * (3 : PReg).val + 4 * (255 : Fin 256).val ∧
    (0x7FFFC : BitVec 20).toNat = 0x40000 + 4 * (256 * 255 + 255) :=
  ⟨fun off ho v => writing_next off v (writeOffsets_aligned off ho), by decide, by decide, by decide, by decide⟩

theorem witness_ResetGivesTheResetState : (WriteNext (busyWith 0 [writeTurn 0x004 0x80000000]) 0x004 0x80000000 [] ∧
      (0x80000000 : Word).getLsbD 31 = true) ∧ (busyWith 0 [.hardReset]).turns = .hardReset :: [] :=
  ⟨⟨⟨rfl, by decide⟩, by decide⟩, rfl⟩

theorem witness_StatusWriteClearsTheFlags :
    let s : State := { State.reset with err := true, errcode := 3, turns := [writeTurn 0x008 6, writeTurn 0x00C 9] }
    WriteNext s 0x008 6 [writeTurn 0x00C 9] ∧ (6 : Word).getLsbD 2 = true ∧ s.pending = none ∧
      ∃ t, step s = .next t ∧ WriteNext t 0x00C 9 [] :=
  ⟨⟨rfl, by decide⟩, by decide, rfl, _, rfl, rfl, by decide⟩

theorem witness_InterruptFollowsDoneAndErr :
    let s : State := { State.reset with irqEn := true, done := true, err := true }
    (s.irqEn = true ∧ (s.done = true ∨ s.err = true)) ∧
    (∃ t, WriteNext { s with turns := [writeTurn 0x008 6] } 0x008 6 [] ∧ (6 : Word).getLsbD 1 = true ∧ (6 : Word).getLsbD 2 = true ∧
      step { s with turns := [writeTurn 0x008 6] } = .next t) ∧
    ∃ t, WriteNext { s with turns := [writeTurn 0x004 0] } 0x004 0 [] ∧ (0 : Word).getLsbD 0 = false ∧
      step { s with turns := [writeTurn 0x004 0] } = .next t :=
  ⟨⟨rfl, .inl rfl⟩, ⟨_, ⟨rfl, by decide⟩, by decide, by decide, rfl⟩, ⟨_, ⟨rfl, by decide⟩, by decide, rfl⟩⟩

theorem witness_AccessesOutsideTheContractAreRefused : (⟨0x010, .bits16, 0xF, .read⟩ : Access).width ≠ .bits32 ∧
    (⟨0x010, .bits32, 0x7, .read⟩ : Access).enables ≠ 0xF ∧ (⟨0x011, .bits32, 0xF, .read⟩ : Access).off.toNat % 4 ≠ 0 ∧
    (wordAccess 0xFFFFC .read).width = .bits32 ∧ (wordAccess 0xFFFFC .read).enables = 0xF ∧ (wordAccess 0xFFFFC .read).off.toNat % 4 = 0 ∧
    (reading 0xFFFFC).turns = .access (wordAccess 0xFFFFC .read) :: [] :=
  ⟨by decide, by decide, by decide, rfl, rfl, by decide, rfl⟩

theorem witness_StepsInsideTheContractAnswerNext : ∀ t ts, (busyWith 0x49 [readTurn 0xFFFFC, .hardReset]).turns = t :: ts → t.wellFormed = true := by
  intro t ts h; cases h; decide

/-- A state that meets the invariant at the ends of its ranges: an error recorded, a command pending, BV full, the last byte
of its memory written, the largest version. -/
def fullState (w : Word) : State :=
  { State.reset with
    err := true, errcode := 0x10, pending := some w, lastcmd := w, version := 40, gridVer := 40
    bv := ⟨[(0, 0x80), (4095, 1)], 32768⟩, cw := ⟨[(4095, 0xFF)], 32768⟩ }

theorem fullState_inv (w : Word) : (fullState w).Inv where
  bvOk := ⟨by simp only [fullState]; decide, by simp [fullState], by simp [fullState]⟩
  cwOk := ⟨by simp only [fullState]; decide, by simp [fullState], by simp [fullState]⟩
  gridVerLe := by simp [fullState]
  noErr := by simp [fullState]
  errCode := by simp [fullState]
  pendingOk := by simp [fullState, State.reset, State.afterReset]
  bestOk := by simp [fullState, State.reset, State.afterReset]
  scoreOk := by simp [fullState, State.reset, State.afterReset, Scores.SumOk, Scores.zero]
  outsideBlank := by intro x y _; unfold Grid.get; split <;> simp [fullState, State.reset, State.afterReset, Grid.blank]

theorem witness_EveryStepKeepsTheInvariant : (fullState 0x49).Inv ∧ ∃ t, step (fullState 0x49) = .next t := ⟨fullState_inv _, _, rfl⟩

theorem witness_PendingCommandsComplete : ∀ t ∈ (busyWith 0x49 [writeTurn 0x00C 0, .sequencer, writeTurn 0x00C 0x41]).turns, t.wellFormed = true := by
  unfold busyWith; decide

theorem witness_CommandsCompleteOrFaultPrecisely : (busyWith 0x49 []).pending = some 0x49 := rfl

theorem witness_ResultHasFiveWriters : (∃ t, exec .nop State.reset = .next t) ∧
    see (exec (.gfMul 0x53 0xCA) .reset) (fun t => decide (t.result ≠ State.reset.result)) = some true := ⟨⟨_, rfl⟩, by decide⟩

theorem witness_CommandsWriteNoHostRegister : ∃ t, exec .maskSearch State.reset = .next t := ⟨_, rfl⟩

/-- Each named writer of BV_LEN and CW_LEN changes it, from a state that meets the invariant. -/
theorem witness_LengthsHaveNamedWriters : (fullState 0x30).Inv ∧
    see (step (fullState 0x30)) (·.bv.len) = some 0 ∧ Executes (fullState 0x30) .bvClear ∧
    see (step { fullState 0x30 with turns := [.hardReset] }) (fun t => (t.bv.len, t.cw.len)) = some (0, 0) ∧
    see (step { fullState 0x00200031 with bv := ⟨[], 32736⟩ }) (·.bv.len) = some 32768 ∧
    see (step { fullState 0x38 with bv := ⟨[], 8⟩, g1 := ⟨1, 2, 1⟩ }) (·.cw.len) = some 16 :=
  ⟨fullState_inv _, by decide, ⟨0x30, [], rfl, rfl, .inl ⟨rfl, rfl⟩⟩, by decide, by decide, by decide⟩

/-- Each kind of writer changes GRID_VER, BEST or the grid. -/
theorem witness_GridStateHasNamedWriters : see (step (busyWith 0x40 [])) (·.gridVer) = some 1 ∧
    see (step { busyWith 0x49 [] with cw := ⟨[], 208⟩ }) (·.bestValid) = some true ∧ Executes (busyWith 0x49 []) .maskSearch ∧
    see (step { writing 0x40000 1 with gridVer := 1 }) (fun t => (t.grid.get 0 0).val) = some true ∧
    see (step { fullState 0x49 with turns := [.hardReset] }) (·.gridVer) = some 0 ∧ Resets (busyWith 0 [.hardReset]) :=
  ⟨by decide, by decide, ⟨0x49, [], rfl, rfl, .inl ⟨rfl, rfl⟩⟩, by decide, by decide, .inl ⟨_, rfl⟩⟩

/-- Words with a command's OP and a reserved bit set: the hypotheses of the decoding clauses of every command's statement. -/
theorem witness_reserved_bits : (0x00000100 &&& 0xFF : Word) = 0 ∧ (0x00008010 &&& 0xFF00 : Word) ≠ 0 ∧ (0x01000012 &&& 0xFF00FF00 : Word) ≠ 0 ∧
    (0x00004020 &&& 0xFFFFC000 : Word) ≠ 0 ∧ (0x00000423 &&& 0xFC00 : Word) ≠ 0 ∧ (0x80000028 &&& 0xFF00FC00 : Word) ≠ 0 ∧
    (0x00001029 &&& 0xFF00F000 : Word) ≠ 0 ∧ (0x00000131 &&& 0xFF00FF00 : Word) ≠ 0 := by decide

theorem witness_GfTablesAreTheSpecs : ReadNext (reading 0x013FC) 0x013FC [] ∧ (0x013FC : BitVec 20).toNat = 0x01000 + 4 * 255 ∧
    ReadNext (reading 0x017FC) 0x017FC [] ∧ (0x017FC : BitVec 20).toNat = 0x01400 + 4 * 255 :=
  ⟨⟨rfl, by decide⟩, by decide, ⟨rfl, by decide⟩, by decide⟩

theorem witness_FieldLaws : (0xFF : Byte) ≠ 0 ∧ 254 < 255 := by decide

theorem witness_GfDivWritesTheQuotient : (busyWith 0x00050011 []).pending = some 0x00050011 ∧ (0xFF : Byte) ≠ 0 := ⟨rfl, by decide⟩

theorem witness_GfInvWritesTheInverse : (busyWith 0x12 []).pending = some 0x12 ∧ (0xFF : Byte) ≠ 0 := ⟨rfl, by decide⟩

/-- PLEN 256 is legal, 257 is not. -/
theorem witness_PAddWritesTheSum : plen (State.writePlen (busyWith 0x20 []) 0 256) 0 = 256 ∧ plen (State.writePlen (busyWith 0x20 []) 0 257) 0 = 257 ∧
    plen (busyWith 0x20 []) 1 ≤ 256 ∧ (busyWith 0x20 []).pending = some 0x20 := by
  refine ⟨by decide, by decide, by decide, rfl⟩

/-- Coefficients of a loaded polynomial. -/
theorem coeff_withPoly (s : State) (p : PReg) (r : Poly) (h : r.length ≤ 256) (k : Nat) : coeff (withPoly p r s) p k ≠ 0 → k < r.length := by
  intro hk
  by_contra hle
  apply hk
  have hl : plen (withPoly p r s) p = r.length := by
    simp [plen, withPoly, PolyReg.ofPoly]; omega
  rw [coeff, if_neg (by omega)]

/-- x^128 · x^128 overflows, x^127 · x^128 does not. -/
theorem witness_PMulWritesTheProduct :
    let s (n : Nat) := withPoly 1 (Poly.monomial 1 128) (withPoly 0 (Poly.monomial 1 n) (busyWith 0x1021 []))
    (plen (s 128) 0 ≤ 256 ∧ plen (s 128) 1 ≤ 256 ∧ coeff (s 128) 0 128 ≠ 0 ∧ coeff (s 128) 1 128 ≠ 0 ∧ 255 < 128 + 128) ∧
    plen (s 127) 0 ≤ 256 ∧ plen (s 127) 1 ≤ 256 ∧ (∀ i j, coeff (s 127) 0 i ≠ 0 → coeff (s 127) 1 j ≠ 0 → i + j ≤ 255) ∧
    256 < plen (State.writePlen (s 1) 0 257) 0 := by
  refine ⟨⟨by decide +kernel, by decide +kernel, by decide +kernel, by decide +kernel, by decide⟩, by decide +kernel, by decide +kernel,
    fun i j hi hj => ?_, by decide +kernel⟩
  have hi : i < 128 := coeff_withPoly (withPoly 1 (Poly.monomial 1 128) (busyWith 0x1021 [])) 0 (Poly.monomial 1 127) (by decide +kernel) i hi
  have hj : j < 129 := coeff_withPoly _ 1 (Poly.monomial 1 128) (by decide +kernel) j hj
  omega

/-- A zero divisor with stored zeros, and a divisor of degree 2. -/
theorem witness_PRemWritesTheRemainder :
    let s (r : Poly) := withPoly 1 r (withPoly 0 [1] (busyWith 0x1022 []))
    (plen (s [0, 0, 0]) 0 ≤ 256 ∧ plen (s [0, 0, 0]) 1 ≤ 256 ∧ ∀ k, coeff (s [0, 0, 0]) 1 k = 0) ∧
    plen (s [2, 0, 1]) 1 ≤ 256 ∧ coeff (s [2, 0, 1]) 1 2 ≠ 0 ∧ (∀ k, 2 < k → coeff (s [2, 0, 1]) 1 k = 0) ∧
    256 < plen (State.writePlen (s []) 0 257) 0 := by
  refine ⟨⟨by decide, by decide, fun k => ?_⟩, by decide, by decide, fun k hk => ?_, by decide⟩
  · by_contra h
    have hk : k < 3 := coeff_withPoly _ 1 [0, 0, 0] (by decide) k h
    interval_cases k <;> revert h <;> decide
  · by_contra h
    have : k < 3 := coeff_withPoly _ 1 [2, 0, 1] (by decide) k h
    omega

theorem witness_PRsencWritesTheRemainder : plen (State.writePlen (busyWith 0x29 []) 0 257) 0 = 257 ∧ plen (State.writePlen (busyWith 0x29 []) 0 256) 0 ≤ 256 := by
  decide

theorem witness_CodewordsHaveZeroSyndromes : 255 ≤ 255 ∧ 254 < 255 := by decide

/-- n = 32 and 33, the last bit of a full vector, and canonical memory. -/
theorem witness_BvAppendAppendsTheLowBits : 32 < (33 : Byte).toNat ∧ (32 : Byte).toNat ≤ 32 ∧ 32768 < (fullState 0x31).bv.len.toNat + (1 : Byte).toNat ∧
    ((32767 : BitVec 16).toNat + (1 : Byte).toNat ≤ 32768 ∧ Memory.wf (fullState 0x31).bv.ram) ∧ (fullState 0x31).pending = some 0x31 :=
  ⟨by decide, by decide, by decide, ⟨by decide, (fullState_inv _).bvOk.canonical⟩, rfl⟩

/-- The last bit, and the index just past it. -/
theorem witness_BvAtReadsOneBit : { fullState 0x32 with arg0 := 32767 }.arg0.toNat < (fullState 0x32).bv.len.toNat ∧
    (fullState 0x32).bv.len.toNat ≤ { fullState 0x32 with arg0 := 32768 }.arg0.toNat ∧ (fullState 0x32).pending = some 0x32 :=
  ⟨by decide, by decide, rfl⟩

theorem witness_BvByteatReadsEightBits : { fullState 0x33 with arg0 := 32767 }.arg0.toNat < (fullState 0x33).bv.len.toNat ∧
    (fullState 0x33).bv.len.toNat ≤ { fullState 0x33 with arg0 := 0xFFFFFFFF }.arg0.toNat ∧ (fullState 0x33).pending = some 0x33 :=
  ⟨by decide, by decide, rfl⟩

/-- The error clauses and the largest stream: V-ERR-17's block structure with REMBITS 1 and 0. -/
theorem witness_EccInterleaveWritesTheStream :
    let s (g : Word) (len : BitVec 16) (r : BitVec 3) : State := { busyWith 0x38 [] with g1 := .ofWord g, bv := ⟨[], len⟩, rembits := r }
    BadBlocks (s 0 0 0) ∧ BadBlocks (s 0x001B1A01 0 0) ∧ BadBlocks { s 0x00101A01 128 0 with g2 := ⟨1, 1, 0⟩ } ∧
    (¬ BadBlocks (s 0x00101A01 120 0) ∧ (s 0x00101A01 120 0).bv.len.toNat ≠ 8 * dataCodewords (s 0x00101A01 120 0)) ∧
    (¬ BadBlocks (s 0x00018020 256 1) ∧ (s 0x00018020 256 1).bv.len.toNat = 8 * dataCodewords (s 0x00018020 256 1) ∧
      32768 < 8 * allCodewords (s 0x00018020 256 1) + (s 0x00018020 256 1).rembits.toNat) ∧
    (¬ BadBlocks (s 0x00018020 256 0) ∧ (s 0x00018020 256 0).bv.len.toNat = 8 * dataCodewords (s 0x00018020 256 0) ∧
      8 * allCodewords (s 0x00018020 256 0) + (s 0x00018020 256 0).rembits.toNat ≤ 32768 ∧ Memory.wf (s 0x00018020 256 0).cw.ram) := by
  unfold BadBlocks dataCodewords allCodewords busyWith; decide

/-- Two blocks of different shapes; the second has a codeword in column 1 and the first has none. -/
theorem witness_InterleaveTakesColumns :
    let shapes : List BlockShape := [⟨1, 2⟩, ⟨2, 2⟩]
    [1, 2, 3].length = (shapes.map (·.data)).sum ∧ shapes[1]? = some ⟨2, 2⟩ ∧ 1 < (⟨2, 2⟩ : BlockShape).data ∧ 1 < (⟨2, 2⟩ : BlockShape).ecc := by
  decide

/-- Versions 0 and 41 are illegal, 1 and 40 legal: the hypotheses of GridClearAndStructStartAGrid, DataModuleCounts and
PlacementVisitsEachUnusedModuleOnce. -/
theorem witness_versions : ¬ IsVersion 0 ∧ ¬ IsVersion 41 ∧ IsVersion 1 ∧ IsVersion 40 ∧ (busyWith 0x40 []).pending = some 0x40 := by
  refine ⟨?_, ?_, ?_, ?_, rfl⟩ <;> unfold IsVersion <;> decide

theorem witness_FormatAndVersionInfoAreBchCodewords : (3 < 4 ∧ 7 < 8) ∧ (7 ≤ (7 : BitVec 6).toNat ∧ (40 : BitVec 6).toNat ≤ 40) := by decide

/-- A module of each structural pattern of version 7, and one outside them all. -/
theorem witness_StructuralModulesHaveTheirValues : IsVersion 7 ∧ FinderCorner (sideOf 7) 38 0 ∧ SeparatorModule (sideOf 7) 37 7 ∧
    (AlignmentCentre 7 22 6 ∧ gap 24 22 ≤ 2 ∧ gap 4 6 ≤ 2) ∧ (8 ≤ 36 ∧ 36 < sideOf 7 - 8) ∧ ¬ StructuralModule 7 44 44 := by
  refine ⟨by unfold IsVersion; decide, by unfold FinderCorner; decide, ⟨by decide, by decide, 38, 0, by unfold FinderCorner; decide, by decide⟩,
    ⟨by unfold AlignmentCentre; decide, by decide, by decide⟩, by decide, ?_⟩
  rintro (⟨fx, fy, h, hx⟩ | ⟨-, -, fx, fy, h, hx⟩ | ⟨cx, cy, ⟨hx, hy, -⟩, hgx, -⟩ | h | h)
  · simp only [FinderCorner, show sideOf 7 = 45 by decide] at h; omega
  · simp only [FinderCorner, show sideOf 7 = 45 by decide] at h; omega
  · have : cx = 6 ∨ cx = 22 ∨ cx = 38 := by simpa [alignAt, alignTable] using hx
    simp only [gap] at hgx; omega
  · omega
  · omega

/-- m = 7 and 8, with and without a grid. -/
theorem witness_GridMetaDrawsTheMetaInformation : 8 ≤ (8 : Byte).toNat ∧ (7 : Byte).toNat < 8 ∧ (busyWith 0x42 []).gridVer = 0 ∧
    (fullState 0x42).gridVer ≠ 0 ∧ (fullState 0x42).pending = some 0x42 := ⟨by decide, by decide, rfl, by decide, rfl⟩

/-- Versions 6 and 7 (without and with version info), the last bits, and a module that the drawing leaves alone. -/
theorem witness_MetaModulesHaveTheirValues : IsVersion 6 ∧ IsVersion 7 ∧ 7 ≤ (7 : BitVec 6).toNat ∧ 7 < 8 ∧ 14 < 15 ∧ 17 < 18 ∧ ¬ MetaModule 6 0 0 := by
  refine ⟨by unfold IsVersion; decide, by unfold IsVersion; decide, by decide, by decide, by decide, by decide, ?_⟩
  rintro (⟨i, hi, h⟩ | h | h)
  · interval_cases i <;> revert h <;> decide
  · omega
  · exact absurd h.1 (by decide)

/-- The error clauses, and a version 1 grid with 208 unused modules and a stream of 208 bits. -/
theorem witness_GridDataPlacesTheStream :
    let s : State := { withGrid 1 ((structGrid 1).drawMeta 1 0 0) (busyWith 0x43 []) with cw := ⟨[], 208⟩ }
    s.gridVer ≠ 0 ∧ s.gridVer.toNat ≤ 40 ∧ s.cw.len.toNat = s.emptyCount ∧ (∀ y, y < sideOf s.gridVer → (s.grid.get 6 y).used = true) ∧
    { s with cw := ⟨[], 207⟩ }.cw.len.toNat ≠ s.emptyCount := by
  decide +kernel

/-- The last position of the order over the patterns of version 1, with bit 207, and a module outside the order. -/
theorem witness_GridBuild_positions :
    let order := ((structGrid 1).drawMeta 1 0 7).placementOrder 21
    order[207]? = some (0, 12) ∧ (6, 20) ∉ order ∧ 7 < 8 := by
  decide +kernel

/-- The checks of GRID_BUILD and MASK_SEARCH at the ends of their ranges. -/
theorem witness_GridBuildBuildsTheWholeSymbol :
    let s (v : BitVec 6) (len : BitVec 16) : State := { busyWith 0x44 [] with version := v, cw := ⟨[], len⟩ }
    ¬ IsVersion (s 41 0).version ∧ (IsVersion (s 40 29647).version ∧ (s 40 29647).cw.len.toNat ≠ dataModules (s 40 29647).version) ∧
    (IsVersion (s 40 29648).version ∧ (s 40 29648).cw.len.toNat = dataModules (s 40 29648).version) := by
  unfold IsVersion busyWith; decide

theorem witness_ScoresFitTheirRegisters : 1 ≤ 177 ∧ 177 ≤ 177 := by decide

theorem witness_GridScoreWritesOneSlot : 8 ≤ (8 : Byte).toNat ∧ (7 : Byte).toNat < 8 ∧ (busyWith 0x48 []).gridVer = 0 ∧
    ((fullState 0x48).gridVer ≠ 0 ∧ (fullState 0x48).gridVer.toNat ≤ 40) := ⟨by decide, by decide, rfl, by decide, by decide⟩

/-- A word that is no MASK_SEARCH, versions 0 and 40, and a stream of one bit too few and of just the capacity. -/
theorem witness_MaskSearchKeepsTheBestMask :
    let s (v : BitVec 6) (len : BitVec 16) : State := { busyWith 0x49 [] with version := v, cw := ⟨[], len⟩ }
    ((0x149 : Word) &&& 0xFF = 0x49 ∧ (0x149 : Word) ≠ 0x49) ∧ (s 40 0).pending = some 0x49 ∧ ¬ IsVersion (s 0 0).version ∧
    (IsVersion (s 40 29647).version ∧ (s 40 29647).cw.len.toNat ≠ dataModules (s 40 29647).version) ∧
    (s 40 29648).cw.len.toNat = dataModules (s 40 29648).version := by
  unfold IsVersion busyWith; decide

theorem witness_MaskSearchIsIdempotent :
    let s : State := { busyWith 0x49 [] with cw := ⟨[], 208⟩ }
    IsVersion s.version ∧ s.cw.len.toNat = dataModules s.version ∧ (∃ t, exec .maskSearch s = .next t ∧ ∃ b : Fin 8, t.bestMask = .ofFin b) ∧
      (7 : Byte).toNat < 8 := by
  refine ⟨by unfold IsVersion; decide, by decide, ⟨_, rfl, _, rfl⟩, by decide⟩

end Sys2Proof.Tests
end

/-! What a command and what a step may write, said once, and the invariant (10_state.md R20 to R49). -/

namespace Sys2Proof.Machine

open Sys2Proof.Spec

/-! ## Lengths of the codeword stream -/

/-- Counting the columns up to n that a block reaches gives its length. -/
theorem sum_range_ite_lt (l n : Nat) : ((List.range n).map fun j => if j < l then 1 else 0).sum = min l n := by
  induction n with
  | zero => simp
  | succ n ih =>
    rw [List.range_succ, List.map_append, List.sum_append, ih]
    simp only [List.map_singleton, List.sum_singleton]
    split <;> omega

/-- The column heights of blocks of at most n codewords add up to the codewords of all blocks. -/
theorem sum_countP_columns (lens : List Nat) (n : Nat) (h : ∀ l ∈ lens, l ≤ n) :
    ((List.range n).map fun j => lens.countP fun l => decide (j < l)).sum = lens.sum := by
  induction lens with
  | nil => simp
  | cons l lens ih =>
    have hrest := ih fun m hm => h m (List.mem_cons_of_mem _ hm)
    simp only [List.countP_cons, decide_eq_true_eq, List.sum_map_add, hrest, sum_range_ite_lt, List.sum_cons,
      Nat.min_eq_left (h l List.mem_cons_self)]
    omega

theorem length_interleave (blocks : List (List Byte)) : (interleave blocks).length = (blocks.map List.length).sum := by
  have hcol (j : Nat) : (blocks.filterMap fun b => b[j]?).length = (blocks.map List.length).countP fun l => decide (j < l) := by
    rw [List.length_filterMap_eq_countP, List.countP_map]
    exact List.countP_congr fun b _ => by simp
  rw [interleave, List.length_flatMap, funext hcol]
  exact sum_countP_columns _ _ fun l hl => List.le_max_of_le hl le_rfl

theorem map_length_splitBlocks (shapes : List BlockShape) (d : List Byte) (h : (shapes.map BlockShape.data).sum ≤ d.length) :
    (splitBlocks shapes d).map List.length = shapes.map BlockShape.data := by
  induction shapes generalizing d with
  | nil => rfl
  | cons b bs ih =>
    rw [List.map_cons, List.sum_cons] at h
    have hrest := ih (d.drop b.data) (by rw [List.length_drop]; omega)
    simp only [splitBlocks, List.map_cons, List.length_take, hrest, Nat.min_eq_left (show b.data ≤ d.length by omega)]

@[simp] theorem length_rsEcc (d : List Byte) (n : Nat) : (rsEcc d n).length = n := by simp [rsEcc]

/-- The stream holds the data and the ECC codewords of every block (44_bitvector.md R221). -/
theorem length_eccStream (shapes : List BlockShape) (d : List Byte) (h : (shapes.map BlockShape.data).sum ≤ d.length) :
    (eccStream shapes d).length = (shapes.map BlockShape.data).sum + (shapes.map BlockShape.ecc).sum := by
  have hdata := map_length_splitBlocks shapes d h
  have hecc : (List.zipWith (fun b d => rsEcc d b.ecc) shapes (splitBlocks shapes d)).map List.length = shapes.map BlockShape.ecc := by
    have hlen : (splitBlocks shapes d).length = shapes.length := by simpa using congrArg List.length hdata
    exact List.ext_getElem (by simp [hlen]) fun i _ _ => by simp
  rw [eccStream, List.length_append, length_interleave, length_interleave, hdata, hecc]

theorem Group.sum_blocks_data (g : Group) : (g.blocks.map BlockShape.data).sum = g.dataCodewords := by
  simp [Group.blocks, Group.dataCodewords]

theorem Group.sum_blocks {g : Group} (h : g.shapeOk = true) :
    (g.blocks.map BlockShape.data).sum + (g.blocks.map BlockShape.ecc).sum = g.codewords := by
  simp only [Group.blocks, List.map_replicate, List.sum_replicate, smul_eq_mul, Group.codewords, ← Nat.mul_add]
  obtain hc | ⟨-, hle⟩ : g.count = 0 ∨ g.data ≠ 0 ∧ g.data.toNat ≤ g.total.toNat := by simpa [Group.shapeOk] using h
  · simp [hc]
  · rw [Nat.add_sub_cancel' hle]

/-- The bits that ECC_INTERLEAVE stores once its checks have passed: 8 for each codeword, and REMBITS zeros (44_bitvector.md R222). -/
theorem length_eccBits {s : State} (h1 : s.g1.shapeOk = true) (h2 : s.g2.shapeOk = true)
    (hlen : s.bv.len.toNat = 8 * (s.g1.dataCodewords + s.g2.dataCodewords)) :
    ((eccStream (s.g1.blocks ++ s.g2.blocks) s.bv.codewords).flatMap bitsOfByte ++ List.replicate s.rembits.toNat false).length =
      8 * (s.g1.codewords + s.g2.codewords) + s.rembits.toNat := by
  have hd : ((s.g1.blocks ++ s.g2.blocks).map BlockShape.data).sum = s.bv.codewords.length := by
    simp [Group.sum_blocks_data, BitRam.codewords, hlen]
  have hstream := length_eccStream (s.g1.blocks ++ s.g2.blocks) s.bv.codewords hd.le
  have hg1 := Group.sum_blocks h1
  have hg2 := Group.sum_blocks h2
  simp only [List.map_append, List.sum_append] at hstream
  simp only [List.length_append, List.length_flatMap, length_bitsOfByte, List.map_const', List.sum_replicate, List.length_replicate,
    smul_eq_mul]
  omega

/-! ## Grids with nothing outside the symbol -/

/-- Every module outside the n × n symbol is blank. -/
def Grid.BlankOutside (g : Grid) (n : Nat) : Prop := ∀ x y, ¬ (x < n ∧ y < n) → g.get x y = .blank

theorem Grid.blank_blankOutside (n : Nat) : Grid.blank.BlankOutside n := fun x y _ => get_blank x y

theorem Grid.BlankOutside.setModule {g : Grid} {n x y : Nat} (h : g.BlankOutside n) (hx : x < n) (hy : y < n) (m : Module) :
    (g.setModule x y m).BlankOutside n := fun x' y' hxy => by
  rw [get_setModule, if_neg (by rintro ⟨rfl, rfl, -⟩; exact hxy ⟨hx, hy⟩), h x' y' hxy]

theorem Grid.BlankOutside.draw {g : Grid} {n : Nat} (h : g.BlankOutside n) {ps : List Put} (hp : ∀ p ∈ ps, p.x < n ∧ p.y < n) :
    (g.draw ps).BlankOutside n := fun x y hxy => by
  rw [get_draw_of_not_mem g ps (by rintro p hmem ⟨rfl, rfl⟩; exact hxy (hp p hmem)), h x y hxy]

theorem structGrid_blankOutside (v : BitVec 6) : (structGrid v).BlankOutside (side v) :=
  (Grid.blank_blankOutside _).draw (structPuts_bound v)

theorem Grid.BlankOutside.drawMeta {g : Grid} {v : BitVec 6} (h : g.BlankOutside (side v)) (level : BitVec 2) (m : Nat) :
    (g.drawMeta v level m).BlankOutside (side v) := h.draw (metaPuts_bound v level m)

theorem Grid.BlankOutside.drawData {g : Grid} {v : BitVec 6} (h : g.BlankOutside (side v)) (m : Nat) (bits : List Bool) :
    (g.drawData (side v) m bits).BlankOutside (side v) := h.draw fun p hp => by
  obtain ⟨hx, hy, -⟩ := mem_placementOrder (by have := side_ge v; omega) (mem_dataPuts hp)
  exact ⟨hx, hy⟩

theorem builtGrid_blankOutside (v : BitVec 6) (level : BitVec 2) (bits : List Bool) (m : Nat) :
    (builtGrid v level bits m).BlankOutside (side v) := ((structGrid_blankOutside v).drawMeta level m).drawData m bits

theorem State.inSymbol_iff {s : State} {x y : Nat} :
    s.inSymbol x y = true ↔ s.gridVer ≠ 0 ∧ x < side s.gridVer ∧ y < side s.gridVer := by
  simp [State.inSymbol, and_assoc]

/-- While a grid is held, the invariant's clause about the grid speaks of the modules outside its symbol. -/
theorem State.outsideBlank_iff {s : State} (h : s.gridVer ≠ 0) : s.OutsideBlank ↔ s.grid.BlankOutside (side s.gridVer) :=
  forall₂_congr fun x y => by rw [← Bool.not_eq_true, State.inSymbol_iff, and_iff_right h]

theorem version_ne_zero {v : BitVec 6} (h : versionOk v = true) : v ≠ 0 := by
  rintro rfl; exact absurd h (by decide)

theorem State.outsideBlank_of_grid {s : State} (h : s.grid.BlankOutside (side s.gridVer)) (hv : s.gridVer ≠ 0) : s.OutsideBlank :=
  (State.outsideBlank_iff hv).2 h

/-! ## Scores -/

theorem Grid.scores_sumOk (g : Grid) (n : Nat) : (g.scores n).SumOk := by
  simp [Grid.scores, Scores.SumOk, BitVec.ofNat_add]

/-! ## What a command that completes writes -/

/-- `Completes i s u`: what command i may have written when it completes, u being s with its outputs (40_command.md R133). Every claim
about who writes which output is read off these cases. -/
inductive Completes (i : Instr) (s : State) : State → Prop
  /-- NOP (40_command.md R138). -/
  | nop (hi : i = .nop) : Completes i s s
  /-- RESULT, a zero-extended value (10_state.md R27). -/
  | result (v : Word) (hv : v.toNat < 256)
      (hi : (∃ a b, i = .gfMul a b) ∨ (∃ a b, i = .gfDiv a b) ∨ (∃ a, i = .gfInv a) ∨ i = .bvAt ∨ i = .bvByteat) :
      Completes i s { s with result := v }
  /-- A polynomial register, by a command with a destination field RD (30_encoding.md R102, 42_gfpoly.md R171). -/
  | poly (d : PReg) (r : Poly) (hi : i.format.usesRd = true) : Completes i s (s.writePoly d r)
  /-- BV_CLEAR (44_bitvector.md R211). -/
  | clearBv (hi : i = .bvClear) : Completes i s { s with bv := { s.bv with len := 0 } }
  /-- BV_APPEND, whose bits fit (44_bitvector.md R212). -/
  | appendBv (n : Byte) (bs : List Bool) (hi : i = .bvAppend n) (hfit : s.bv.len.toNat + bs.length ≤ 32768) :
      Completes i s { s with bv := s.bv.storeAt s.bv.len.toNat bs }
  /-- ECC_INTERLEAVE, whose stream fits (44_bitvector.md R222). -/
  | storeCw (bs : List Bool) (hi : i = .eccInterleave) (hfit : bs.length ≤ 32768) : Completes i s { s with cw := s.cw.storeAt 0 bs }
  /-- A new grid of the version in VERSION (45_symbol.md R241, R248, R263). -/
  | newGrid (g : Grid) (hi : i = .gridClear ∨ i = .gridStruct ∨ ∃ m, i = .gridBuild m) (hv : versionOk s.version = true)
      (hg : g.BlankOutside (side s.version)) : Completes i s { s with gridVer := s.version, grid := g }
  /-- A drawing on the grid held (45_symbol.md R256, R261). -/
  | redraw (g : Grid) (hi : (∃ m, i = .gridMeta m) ∨ ∃ m, i = .gridData m) (hv : s.gridVer ≠ 0)
      (hg : s.grid.BlankOutside (side s.gridVer) → g.BlankOutside (side s.gridVer)) : Completes i s { s with grid := g }
  /-- One score slot (46_mask.md R289). -/
  | score (m : Byte) (hi : i = .gridScore m) (hm : m.toNat < 8) (c : Scores) (hc : c.SumOk) :
      Completes i s { s with score := s.score.set m.toNat c }
  /-- MASK_SEARCH (46_mask.md R291). -/
  | search (sc : Vector Scores 8) (g : Grid) (m : BitVec 3) (p : Word) (hi : i = .maskSearch) (hv : versionOk s.version = true)
      (hsc : ∀ k : Fin 8, sc[k].SumOk) (hg : g.BlankOutside (side s.version)) :
      Completes i s { s with score := sc, grid := g, gridVer := s.version, bestValid := true, bestMask := m, bestPen := p }

/-- `Ends i s o`: the outcome o of command i on s is a recorded error or a completion (40_command.md R133, 60_exceptions.md R311). -/
def Ends (i : Instr) (s : State) (o : Outcome) : Prop :=
  (∃ e, o = .next (s.raise e)) ∨ ∃ u, o = .next u.complete ∧ Completes i s u

theorem Ends.trap {i : Instr} {s : State} (e : ErrCode) : Ends i s (trap e s) := .inl ⟨e, rfl⟩

theorem Ends.finish {i : Instr} {s u : State} (h : Completes i s u) : Ends i s (finish u) := .inr ⟨u, rfl, h⟩

/-- A check of a command decides between two ends. -/
theorem Ends.ite {i : Instr} {s : State} {c : Prop} [Decidable c] {a b : Outcome} (ha : c → Ends i s a) (hb : ¬ c → Ends i s b) :
    Ends i s (if c then a else b) := by
  split
  · next h => exact ha h
  · next h => exact hb h

theorem Completes.writeResult {i : Instr} {s : State} {w : Nat} (v : BitVec w) (hv : v.toNat < 256)
    (hi : (∃ a b, i = .gfMul a b) ∨ (∃ a b, i = .gfDiv a b) ∨ (∃ a, i = .gfInv a) ∨ i = .bvAt ∨ i = .bvByteat) :
    Completes i s (s.writeResult v) :=
  .result (zext v) (by rw [BitVec.toNat_setWidth]; exact (Nat.mod_le _ _).trans_lt hv) hi

theorem toNat_ofBit_lt (b : Bool) : (ofBit b).toNat < 256 := by cases b <;> decide

/-- The one inversion of `exec`: what each command checks, and what it writes once the checks have passed. -/
theorem exec_ends_completes (i : Instr) (s : State) : Ends i s (exec i s) := by
  cases i with
  | nop => exact .finish (.nop rfl)
  | gfMul a b => exact .finish (.writeResult _ (BitVec.isLt _) (.inl ⟨a, b, rfl⟩))
  | gfDiv a b => exact .ite (fun _ => .trap _) fun _ => .finish (.writeResult _ (BitVec.isLt _) (.inr (.inl ⟨a, b, rfl⟩)))
  | gfInv a => exact .ite (fun _ => .trap _) fun _ => .finish (.writeResult _ (BitVec.isLt _) (.inr (.inr (.inl ⟨a, rfl⟩))))
  | pAdd rd ra rb =>
    show Ends _ s (execPAdd rd ra rb s)
    unfold execPAdd; split
    · exact .finish (.poly _ _ rfl)
    · exact .trap _
  | pMul rd ra rb =>
    show Ends _ s (execPMul rd ra rb s)
    unfold execPMul; split
    · exact .ite (fun _ => .trap _) fun _ => .finish (.poly _ _ rfl)
    · exact .trap _
  | pRem rd ra rb =>
    show Ends _ s (execPRem rd ra rb s)
    unfold execPRem; split
    · exact .ite (fun _ => .trap _) fun _ => .finish (.poly _ _ rfl)
    · exact .trap _
  | pMono rd c k => exact .finish (.poly _ _ rfl)
  | pGen rd n => exact .finish (.poly _ _ rfl)
  | pRsenc rd ra n =>
    show Ends _ s (execPRsenc rd ra n s)
    unfold execPRsenc; split
    · exact .finish (.poly _ _ rfl)
    · exact .trap _
  | bvClear => exact .finish (.clearBv rfl)
  | bvAppend n =>
    refine .ite (fun _ => .trap _) fun _ => .ite (fun _ => .trap _) fun hfit => .finish (.appendBv n _ rfl ?_)
    simpa [appendBits, Config.bvMax] using hfit
  | bvAt => exact .ite (fun _ => .trap _) fun _ => .finish (.writeResult _ (toNat_ofBit_lt _) (.inr (.inr (.inr (.inl rfl)))))
  | bvByteat => exact .ite (fun _ => .trap _) fun _ => .finish (.writeResult _ (BitVec.isLt _) (.inr (.inr (.inr (.inr rfl)))))
  | eccInterleave =>
    refine .ite (fun _ => .trap _) fun hshape => .ite (fun _ => .trap _) fun hlen => .ite (fun _ => .trap _) fun hfit =>
      .finish (.storeCw _ rfl ?_)
    simp only [not_or, Bool.not_eq_false] at hshape
    obtain ⟨-, h1, h2⟩ := hshape
    rw [length_eccBits h1 h2 (not_not.1 hlen)]
    exact not_lt.1 hfit
  | gridClear => exact .ite (fun hv => .finish (.newGrid _ (.inl rfl) hv (Grid.blank_blankOutside _))) fun _ => .trap _
  | gridStruct => exact .ite (fun hv => .finish (.newGrid _ (.inr (.inl rfl)) hv (structGrid_blankOutside _))) fun _ => .trap _
  | gridMeta m =>
    exact .ite (fun _ => .trap _) fun _ => .ite (fun _ => .trap _) fun hv =>
      .finish (.redraw _ (.inl ⟨m, rfl⟩) hv fun hg => hg.drawMeta _ _)
  | gridData m =>
    exact .ite (fun _ => .trap _) fun _ => .ite (fun _ => .trap _) fun hv => .ite (fun _ => .trap _) fun _ =>
      .finish (.redraw _ (.inr ⟨m, rfl⟩) hv fun hg => hg.drawData _ _)
  | gridBuild m =>
    exact .ite (fun _ => .trap _) fun _ => .ite (fun _ => .trap _) fun hv => .ite (fun _ => .trap _) fun _ =>
      .finish (.newGrid _ (.inr (.inr ⟨m, rfl⟩)) (Bool.not_eq_false _ ▸ hv) (builtGrid_blankOutside _ _ _ _))
  | gridScore m =>
    show Ends _ s (execGridScore m s)
    unfold execGridScore; split
    · next hm => exact .ite (fun _ => .trap _) fun _ => .finish (.score m rfl hm _ (Grid.scores_sumOk _ _))
    · exact .trap _
  | maskSearch =>
    refine .ite (fun _ => .trap _) fun hv => .ite (fun _ => .trap _) fun _ =>
      .finish (.search _ _ _ _ rfl (by simpa using hv) (fun k => ?_) (builtGrid_blankOutside _ _ _ _))
    simpa using Grid.scores_sumOk _ _

theorem exec_next {i : Instr} {s t : State} (h : exec i s = .next t) :
    (∃ e, t = s.raise e) ∨ ∃ u, t = u.complete ∧ Completes i s u := by
  obtain ⟨e, he⟩ | ⟨u, hu, hc⟩ := exec_ends_completes i s
  · exact .inl ⟨e, by rw [he] at h; cases h; rfl⟩
  · exact .inr ⟨u, by rw [hu] at h; cases h; rfl, hc⟩

/-! ## What a step writes -/

theorem Target.ofRegister_ne_grid (o x y : Nat) : Target.ofRegister o ≠ .grid x y := by
  unfold Target.ofRegister
  split
  case h_24 => split <;> nofun
  all_goals nofun

/-- Case analysis over the aperture's ranges (20_memory.md R70), with what the targets that a write reaches say of the offset. -/
theorem Target.ofOffset_elim {P : Target → Prop} (off : BitVec 20) (hreg : off.toNat < 0x300 → P (.ofRegister off.toNat))
    (hexp : ∀ i, P (.expRom i)) (hlog : ∀ i, P (.logRom i))
    (hpram : 0x02000 ≤ off.toNat → off.toNat < 0x03000 → ∀ p i, P (.pram p i)) (hbv : ∀ w, P (.bvWindow w)) (hcw : ∀ w, P (.cwWindow w))
    (hgrid : 0x40000 ≤ off.toNat → off.toNat < 0x80000 → ∀ x y, P (.grid x y)) (hbitmap : ∀ x y, P (.bitmap x y))
    (hnone : P .unmapped) : P (.ofOffset off) := by
  unfold Target.ofOffset; dsimp only
  by_cases h : off.toNat < 0x300
  · rw [if_pos h]; exact hreg h
  rw [if_neg h]
  refine ite_of hnone (ite_of (hexp _) (ite_of (hlog _) (ite_of hnone ?_)))
  by_cases hhi : off.toNat < 0x03000
  · rw [dif_pos hhi]
    by_cases hlo : 0x02000 ≤ off.toNat
    · rw [if_pos hlo]; exact hpram hlo hhi _ _
    · rw [if_neg hlo]; exact hnone
  rw [dif_neg hhi]
  refine ite_of hnone (ite_of (hbv _) (ite_of (hcw _) ?_))
  by_cases hlo : off.toNat < 0x40000
  · rw [if_pos hlo]; exact hnone
  rw [if_neg hlo]
  by_cases hhi : off.toNat < 0x80000
  · rw [if_pos hhi]; exact hgrid (not_lt.1 hlo) hhi _ _
  · rw [if_neg hhi]; exact ite_of (hbitmap _ _) hnone

/-- The GRID window's range (20_memory.md R70). -/
theorem Target.ofOffset_eq_grid {off : BitVec 20} {x y : Nat} :
    Target.ofOffset off = .grid x y → 0x40000 ≤ off.toNat ∧ off.toNat < 0x80000 :=
  Target.ofOffset_elim (P := fun t => t = .grid x y → 0x40000 ≤ off.toNat ∧ off.toNat < 0x80000) off
    (hreg := fun _ h => absurd h (ofRegister_ne_grid _ x y)) (hexp := nofun) (hlog := nofun) (hpram := nofun) (hbv := nofun)
    (hcw := nofun) (hgrid := fun hlo hhi _ _ _ => ⟨hlo, hhi⟩) (hbitmap := nofun) (hnone := nofun)

/-- CTRL is one offset (10_state.md R22). -/
theorem Target.ofOffset_eq_ctrl {off : BitVec 20} (h : Target.ofOffset off = .ctrl) : off = 4#20 := by
  obtain h4 | rfl := (writableWhileBusy_iff off).1 (by rw [h]; rfl)
  · exact h4
  · simp at h

/-- `u` is `s` but for CTRL.IRQ_EN, the operand registers that only the host writes, and the polynomial registers (10_state.md R23, R26,
R29, R32 to R35, R42). -/
def State.OperandsOnly (s u : State) : Prop :=
  u = { s with
    irqEn := u.irqEn
    arg0 := u.arg0
    polys := u.polys
    version := u.version
    level := u.level
    g1 := u.g1
    g2 := u.g2
    rembits := u.rembits }

theorem State.writeCtrl_of_sreset {v : Word} (h : v.getLsbD 31 = true) (s : State) : s.writeCtrl v = s.resetCore := if_pos h

theorem State.writeCtrl_of_not_sreset {v : Word} (h : v.getLsbD 31 = false) (s : State) :
    s.writeCtrl v = { s with irqEn := v.getLsbD 0 } := if_neg (ne_true_of_eq_false h)

/-- A write that the CORE performs is a soft reset, a STATUS, CMD or GRID write, or it stores an operand (10_state.md R41). -/
theorem State.writeTarget_cases (s : State) (v : Word) (t : Target) :
    (t = .ctrl ∧ v.getLsbD 31 = true ∧ s.writeTarget v t = s.resetCore) ∨ (t = .status ∧ s.writeTarget v t = s.writeStatus v) ∨
    (t = .cmd ∧ s.writeTarget v t = s.offerCommand v) ∨ (∃ x y, t = .grid x y ∧ s.writeTarget v t = s.writeGrid x y v) ∨
    s.OperandsOnly (s.writeTarget v t) := by
  cases t with
  | ctrl =>
    cases hv : v.getLsbD 31
    · refine .inr (.inr (.inr (.inr ?_)))
      rw [State.writeTarget, State.writeCtrl_of_not_sreset hv]; rfl
    · exact .inl ⟨rfl, rfl, State.writeCtrl_of_sreset hv s⟩
  | status => exact .inr (.inl ⟨rfl, rfl⟩)
  | cmd => exact .inr (.inr (.inl ⟨rfl, rfl⟩))
  | grid x y => exact .inr (.inr (.inr (.inl ⟨x, y, rfl, rfl⟩)))
  | _ => exact .inr (.inr (.inr (.inr rfl)))

/-- `StepWrites s t`: what the step from s to t may have written. The reset input, the host's accesses and the sequencer's step are
told apart by what they write (40_command.md R131 to R136, 60_exceptions.md R311); ts are the turns left. -/
inductive StepWrites (s : State) : State → Prop
  /-- A reset, by the input or by CTRL (70_reset_and_hazards.md R340, R341). -/
  | reset (ts : List Turn) (h : Resets s) : StepWrites s (State.resetCore { s with turns := ts })
  /-- A command that completes. -/
  | command (ts : List Turn) (i : Instr) (u : State) (h : Executes s i) (hu : Completes i { s with turns := ts } u) :
      StepWrites s u.complete
  /-- A command that faults, or a word that is no command. -/
  | fault (ts : List Turn) (e : ErrCode) : StepWrites s (State.raise { s with turns := ts } e)
  /-- An idle step or a host read. -/
  | quiet (ts : List Turn) (r : Word) (d : Nat) : StepWrites s { s with turns := ts, rdata := r, draws := d }
  /-- A host write refused while BUSY = 1. -/
  | refused (ts : List Turn) (off : BitVec 20) : StepWrites s (State.refuseWrite { s with turns := ts } off)
  /-- A STATUS write. -/
  | status (ts : List Turn) (v : Word) : StepWrites s (State.writeStatus { s with turns := ts } v)
  /-- A CMD write while BUSY = 0. -/
  | offer (ts : List Turn) (w : Word) : StepWrites s (State.offerCommand { s with turns := ts } w)
  /-- A write to the GRID window while BUSY = 0. -/
  | grid (ts : List Turn) (off : BitVec 20) (v : Word) (x y : Nat) (h : WriteNext s off v ts) (hidle : s.pending = none)
      (hlo : 0x40000 ≤ off.toNat) (hhi : off.toNat < 0x80000) : StepWrites s (State.writeGrid { s with turns := ts } x y v)
  /-- Any other host write. -/
  | operand (ts : List Turn) (u : State) (hu : State.OperandsOnly { s with turns := ts } u) : StepWrites s u

/-- A command's step. -/
theorem stepWrites_of_runCommand {s t : State} {w : Word} {ts : List Turn} (hw : s.pending = some w) (hts : SequencerNext s ts)
    (h : runCommand w { s with turns := ts } = .next t) : StepWrites s t := by
  obtain ⟨i, hi, h⟩ | ⟨-, h⟩ := runCommand_cases h
  · obtain ⟨e, rfl⟩ | ⟨u, rfl, hu⟩ := exec_next h.symm
    · exact .fault ts e
    · exact .command ts i u ⟨w, ts, hw, hi, hts⟩ hu
  · cases h; exact .fault ts _

/-- A host write's step. -/
theorem stepWrites_hostWrite {s : State} {off : BitVec 20} {v : Word} {ts : List Turn} (h : WriteNext s off v ts) :
    StepWrites s (State.hostWrite { s with turns := ts } off v) := by
  obtain ⟨-, -, heq⟩ | ⟨hreach, heq⟩ := State.hostWrite_cases { s with turns := ts } off v <;> rw [heq]
  · exact .refused ts off
  · obtain ⟨hc, hv, heq⟩ | ⟨-, heq⟩ | ⟨-, heq⟩ | ⟨x, y, hg, heq⟩ | hu := State.writeTarget_cases { s with turns := ts } v (.ofOffset off)
    · obtain rfl := Target.ofOffset_eq_ctrl hc
      rw [heq]; exact .reset ts (.inr ⟨v, ts, h, hv⟩)
    · rw [heq]; exact .status ts v
    · rw [heq]; exact .offer ts v
    · have hidle : s.busy = false := hreach.resolve_right (by simp [hg, Target.writableWhileBusy])
      obtain ⟨hlo, hhi⟩ := Target.ofOffset_eq_grid hg
      rw [heq]; exact .grid ts off v x y h (by simpa [State.busy] using hidle) hlo hhi
    · exact .operand ts _ hu

/-- The one inversion of `step`: what it may have written. -/
theorem step_writes {s t : State} (h : step s = .next t) : StepWrites s t := by
  obtain ⟨ts, hts, ⟨-, rfl⟩ | ⟨w, hw, hr⟩⟩ | ⟨ts, hts, rfl⟩ | ⟨off, ts, -, -, rfl⟩ | ⟨off, v, ts, hts, hoff, rfl⟩ := step_cases h
  · exact .quiet ts _ _
  · exact stepWrites_of_runCommand hw hts hr
  · exact .reset ts (.inl ⟨ts, hts⟩)
  · rw [State.hostRead_eq]; exact .quiet ts _ _
  · exact stepWrites_hostWrite ⟨hts, hoff⟩

/-! ## The invariant -/

theorem ErrCode.code_range (e : ErrCode) : 1 ≤ e.code.toNat ∧ e.code.toNat ≤ 0x10 := by cases e <;> decide

theorem State.resetCore_inv (s : State) : s.resetCore.Inv where
  bvOk := BitRam.empty_ok
  cwOk := BitRam.empty_ok
  gridVerLe := Nat.zero_le _
  noErr _ := rfl
  errCode := nofun
  pendingOk := nofun
  bestOk _ := ⟨rfl, rfl⟩
  scoreOk m := by simp [State.resetCore, Scores.SumOk, Scores.zero]
  outsideBlank x y _ := Grid.get_blank x y

namespace State.Inv

variable {s : State} (h : s.Inv)
include h

theorem recordError (e : ErrCode) (w : Word) : (s.recordError e w).Inv := by
  unfold State.recordError
  split
  · exact h
  · exact { h with noErr := nofun, errCode := fun _ => e.code_range }

theorem raise (e : ErrCode) : (s.raise e).Inv := { h.recordError e s.commandWord with pendingOk := nofun }

theorem complete : s.complete.Inv := { h with pendingOk := nofun }

theorem refuseWrite (off : BitVec 20) : (s.refuseWrite off).Inv := h.recordError _ _

theorem writeStatus (v : Word) : (s.writeStatus v).Inv := by
  refine { h with noErr := ?_, errCode := ?_, pendingOk := fun w hw => ?_ }
  · rw [writeStatus_err, writeStatus_errcode]
    cases v.getLsbD 2
    · simpa using h.noErr
    · exact fun _ => rfl
  · rw [writeStatus_err, writeStatus_errcode]
    cases v.getLsbD 2
    · simpa using h.errCode
    · simp
  · obtain ⟨hlast, hdone⟩ := h.pendingOk w hw
    exact ⟨hlast, by rw [writeStatus_done, hdone, Bool.false_and]⟩

theorem offerCommand (w : Word) : (s.offerCommand w).Inv := by
  unfold State.offerCommand
  split
  · exact h
  · exact { h with pendingOk := fun _ hw => ⟨Option.some.inj hw, rfl⟩ }

theorem writeGrid (x y : Nat) (v : Word) : (s.writeGrid x y v).Inv := by
  unfold State.writeGrid
  split
  · next hin =>
    obtain ⟨hv, hx, hy⟩ := State.inSymbol_iff.1 hin
    exact { h with outsideBlank := State.outsideBlank_of_grid (((State.outsideBlank_iff hv).1 h.outsideBlank).setModule hx hy _) hv }
  · exact h

theorem operandsOnly {u : State} (hu : s.OperandsOnly u) : u.Inv := by
  rw [hu]; exact { h with }

/-- The invariant speaks of neither the host's turns, nor its read data, nor the draw counter. -/
theorem host (ts : List Turn) (r : Word) (d : Nat) : State.Inv { s with turns := ts, rdata := r, draws := d } := { h with }

/-- The outputs of a completing command meet the invariant. -/
theorem completes {i : Instr} {u : State} (hu : Completes i s u) : u.Inv := by
  cases hu with
  | nop hi => exact h
  | result v hv hi => exact { h with }
  | poly d r hi => exact { h with }
  | clearBv hi => exact { h with bvOk := { h.bvOk with lenLe := Nat.zero_le _ } }
  | appendBv n bs hi hfit => exact { h with bvOk := BitRam.storeAt_ok h.bvOk _ bs hfit }
  | storeCw bs hi hfit => exact { h with cwOk := BitRam.storeAt_ok h.cwOk 0 bs (by omega) }
  | newGrid g hi hv hg =>
    obtain ⟨hlo, hhi⟩ := versionOk_iff.1 hv
    exact { h with gridVerLe := hhi, outsideBlank := State.outsideBlank_of_grid hg (version_ne_zero hv) }
  | redraw g hi hv hg =>
    exact { h with outsideBlank := State.outsideBlank_of_grid (hg ((State.outsideBlank_iff hv).1 h.outsideBlank)) hv }
  | score m hi hm c hc =>
    refine { h with scoreOk := fun k => ?_ }
    simp only [Fin.getElem_fin, Vector.getElem_set]
    split
    · exact hc
    · exact h.scoreOk k
  | search sc g m p hi hv hsc hg =>
    obtain ⟨hlo, hhi⟩ := versionOk_iff.1 hv
    exact { h with
      gridVerLe := hhi
      bestOk := nofun
      scoreOk := hsc
      outsideBlank := State.outsideBlank_of_grid hg (version_ne_zero hv) }

/-- Every step keeps the invariant. -/
theorem stepWrites {t : State} (ht : StepWrites s t) : t.Inv := by
  cases ht with
  | reset ts _ => exact State.resetCore_inv _
  | command ts i u _ hu => exact ((h.host ts _ _).completes hu).complete
  | fault ts e => exact (h.host ts _ _).raise e
  | quiet ts r d => exact h.host ts r d
  | refused ts off => exact (h.host ts _ _).refuseWrite off
  | status ts v => exact (h.host ts _ _).writeStatus v
  | offer ts w => exact (h.host ts _ _).offerCommand w
  | grid ts off v x y _ _ _ _ => exact (h.host ts _ _).writeGrid x y v
  | operand ts _ hu => exact (h.host ts _ _).operandsOnly hu

end State.Inv

/-- Settles O19: each kind of step keeps the invariant, by the one inversion of `step`. -/
theorem everyStepKeepsTheInvariant : Obligations.EveryStepKeepsTheInvariant :=
  fun _ _ h hstep => h.stepWrites (step_writes hstep)

end Sys2Proof.Machine

/-! Which command, write or reset changes which output, read off from what a step may write. -/

namespace Sys2Proof.Machine

open Sys2Proof.Spec

/-! ## Commands and the host's registers -/

/-- Settles O24: a command writes outputs and the error record only. -/
theorem commandsWriteNoHostRegister : Obligations.CommandsWriteNoHostRegister := by
  intro i s t h
  obtain ⟨e, he⟩ | ⟨u, hu, hout⟩ := exec_ends i s
  · obtain rfl : s.raise e = t := by rw [he] at h; cases h; rfl
    simp
  · obtain rfl : u.complete = t := by rw [hu] at h; cases h; rfl
    rw [hout]
    exact ⟨rfl, rfl, rfl, rfl, rfl, rfl, rfl, rfl, rfl, rfl, rfl⟩

/-! ## Who writes which output -/

/-- Of the outputs that the spec names writers for, t has those of s (10_state.md R27, R30, R31, R36, R37). -/
structure State.SameOutputs (s t : State) : Prop where
  result : t.result = s.result
  bv : t.bv = s.bv
  cw : t.cw = s.cw
  gridVer : t.gridVer = s.gridVer
  bestValid : t.bestValid = s.bestValid
  bestMask : t.bestMask = s.bestMask
  bestPen : t.bestPen = s.bestPen

/-- The next step of s is a host write to the GRID window while BUSY = 0 (20_memory.md R78). -/
def WritesGridWindow (s : State) : Prop :=
  ∃ off v ts, WriteNext s off v ts ∧ s.pending = none ∧ 0x40000 ≤ off.toNat ∧ off.toNat < 0x80000

/-- Only a reset and a completing command write an output, but for the host's writes to the GRID window. -/
theorem StepWrites.outputs_cases {s t : State} (h : StepWrites s t) :
    (Resets s ∧ ∃ ts, t = State.resetCore { s with turns := ts }) ∨
    (∃ ts i u, Executes s i ∧ Completes i { s with turns := ts } u ∧ t = u.complete) ∨
    (s.SameOutputs t ∧ (t.grid = s.grid ∨ WritesGridWindow s)) := by
  cases h with
  | reset ts h => exact .inl ⟨h, ts, rfl⟩
  | command ts i u h hu => exact .inr (.inl ⟨ts, i, u, h, hu, rfl⟩)
  | fault ts e => exact .inr (.inr ⟨by constructor <;> simp, .inl (by simp)⟩)
  | quiet ts r d => exact .inr (.inr ⟨⟨rfl, rfl, rfl, rfl, rfl, rfl, rfl⟩, .inl rfl⟩)
  | refused ts off => exact .inr (.inr ⟨by constructor <;> simp, .inl (by simp)⟩)
  | status ts v => exact .inr (.inr ⟨⟨rfl, rfl, rfl, rfl, rfl, rfl, rfl⟩, .inl rfl⟩)
  | offer ts w => exact .inr (.inr ⟨by constructor <;> simp, .inl (by simp)⟩)
  | grid ts off v x y h hidle hlo hhi =>
    refine .inr (.inr ⟨?_, .inr ⟨off, v, ts, h, hidle, hlo, hhi⟩⟩)
    unfold State.writeGrid
    split <;> exact ⟨rfl, rfl, rfl, rfl, rfl, rfl, rfl⟩
  | operand ts _ hu => rw [hu]; exact .inr (.inr ⟨⟨rfl, rfl, rfl, rfl, rfl, rfl, rfl⟩, .inl rfl⟩)

/-! ## RESULT -/

theorem Completes.result_cases {i : Instr} {s u : State} (h : Completes i s u) :
    u.result = s.result ∨ (u.result.toNat < 256 ∧
      ((∃ a b, i = .gfMul a b) ∨ (∃ a b, i = .gfDiv a b) ∨ (∃ a, i = .gfInv a) ∨ i = .bvAt ∨ i = .bvByteat)) := by
  cases h with
  | result v hv hi => exact .inr ⟨hv, hi⟩
  | _ => exact .inl rfl

/-- Settles O23, from what a completing command writes. -/
theorem resultHasFiveWriters : Obligations.ResultHasFiveWriters := by
  refine ⟨fun i s t h => ?_, fun s t h hne => ?_⟩
  · obtain ⟨e, rfl⟩ | ⟨u, rfl, hu⟩ := exec_next h
    · simp
    · obtain heq | ⟨hlt, hi⟩ := hu.result_cases
      · exact ⟨fun _ _ _ _ _ => heq, fun hne => absurd heq hne⟩
      · refine ⟨fun hmul hdiv hinv hat hbyte => ?_, fun _ => hlt⟩
        obtain ⟨a, b, rfl⟩ | ⟨a, b, rfl⟩ | ⟨a, rfl⟩ | rfl | rfl := hi
        exacts [absurd rfl (hmul a b), absurd rfl (hdiv a b), absurd rfl (hinv a), absurd rfl hat, absurd rfl hbyte]
  · obtain ⟨hreset, ts, rfl⟩ | ⟨ts, i, u, hi, hu, rfl⟩ | ⟨hsame, -⟩ := (step_writes h).outputs_cases
    · exact .inl ⟨hreset, rfl⟩
    · obtain heq | ⟨-, hwriter⟩ := hu.result_cases
      · exact absurd heq hne
      · obtain ⟨a, b, rfl⟩ | ⟨a, b, rfl⟩ | ⟨a, rfl⟩ | rfl | rfl := hwriter
        exacts [.inr (.inl ⟨a, b, hi⟩), .inr (.inr (.inl ⟨a, b, hi⟩)), .inr (.inr (.inr (.inl ⟨a, hi⟩))),
          .inr (.inr (.inr (.inr (.inl hi)))), .inr (.inr (.inr (.inr (.inr hi))))]
    · exact absurd hsame.result hne

/-! ## BV_LEN and CW_LEN -/

theorem Completes.bvLen_cases {i : Instr} {s u : State} (h : Completes i s u) :
    u.bv.len = s.bv.len ∨ (i = .bvClear ∧ u.bv.len = 0) ∨ ∃ n, i = .bvAppend n ∧ s.bv.len.toNat ≤ u.bv.len.toNat := by
  cases h with
  | clearBv hi => exact .inr (.inl ⟨hi, rfl⟩)
  | appendBv n bs hi hfit =>
    refine .inr (.inr ⟨n, hi, ?_⟩)
    rw [BitRam.storeAt_len _ _ _ (by omega)]
    exact Nat.le_add_right _ _
  | _ => exact .inl rfl

theorem Completes.cwLen_cases {i : Instr} {s u : State} (h : Completes i s u) : u.cw.len = s.cw.len ∨ i = .eccInterleave := by
  cases h with
  | storeCw bs hi hfit => exact .inr hi
  | _ => exact .inl rfl

/-- Settles O25: the writers from what a completing command writes, the bounds from the invariant. -/
theorem lengthsHaveNamedWriters : Obligations.LengthsHaveNamedWriters := by
  intro s t hinv h
  have hinv' := everyStepKeepsTheInvariant s t hinv h
  refine ⟨fun hne => ?_, fun hne => ?_, hinv'.bvOk.lenLe, hinv'.cwOk.lenLe⟩
  · obtain ⟨hreset, ts, rfl⟩ | ⟨ts, i, u, hi, hu, rfl⟩ | ⟨hsame, -⟩ := (step_writes h).outputs_cases
    · exact .inl ⟨hreset, rfl⟩
    · obtain heq | ⟨rfl, hzero⟩ | ⟨n, rfl, hle⟩ := hu.bvLen_cases
      · exact absurd heq hne
      · exact .inr (.inl ⟨hi, hzero⟩)
      · exact .inr (.inr ⟨n, hi, lt_of_le_of_ne hle fun heq => hne (BitVec.eq_of_toNat_eq heq.symm)⟩)
    · exact absurd (congrArg BitRam.len hsame.bv) hne
  · obtain ⟨hreset, ts, rfl⟩ | ⟨ts, i, u, hi, hu, rfl⟩ | ⟨hsame, -⟩ := (step_writes h).outputs_cases
    · exact .inl ⟨hreset, rfl⟩
    · obtain heq | rfl := hu.cwLen_cases
      · exact absurd heq hne
      · exact .inr hi
    · exact absurd (congrArg BitRam.len hsame.cw) hne

/-! ## GRID_VER, BEST, BEST_PEN and the grid -/

theorem Completes.gridVer_cases {i : Instr} {s u : State} (h : Completes i s u) : u.gridVer = s.gridVer ∨
    (u.gridVer = s.version ∧ (i = .gridClear ∨ i = .gridStruct ∨ (∃ m, i = .gridBuild m) ∨ i = .maskSearch)) := by
  cases h with
  | newGrid g hi hv hg => exact .inr ⟨rfl, hi.imp id (.imp id .inl)⟩
  | search sc g m p hi hv hsc hg => exact .inr ⟨rfl, .inr (.inr (.inr hi))⟩
  | _ => exact .inl rfl

theorem Completes.best_cases {i : Instr} {s u : State} (h : Completes i s u) :
    (u.bestValid = s.bestValid ∧ u.bestMask = s.bestMask ∧ u.bestPen = s.bestPen) ∨ i = .maskSearch := by
  cases h with
  | search sc g m p hi hv hsc hg => exact .inr hi
  | _ => exact .inl ⟨rfl, rfl, rfl⟩

theorem Completes.grid_cases {i : Instr} {s u : State} (h : Completes i s u) : u.grid = s.grid ∨
    i = .gridClear ∨ i = .gridStruct ∨ (∃ m, i = .gridMeta m) ∨ (∃ m, i = .gridData m) ∨ (∃ m, i = .gridBuild m) ∨ i = .maskSearch := by
  cases h with
  | newGrid g hi hv hg => exact .inr (hi.imp id (.imp id fun hbuild => .inr (.inr (.inl hbuild))))
  | redraw g hi hv hg => exact .inr (.inr (.inr (hi.imp id .inl)))
  | search sc g m p hi hv hsc hg => exact .inr (.inr (.inr (.inr (.inr (.inr hi)))))
  | _ => exact .inl rfl

/-- Settles O26, from what a completing command writes. -/
theorem gridStateHasNamedWriters : Obligations.GridStateHasNamedWriters := by
  intro s t h
  obtain ⟨hreset, ts, rfl⟩ | ⟨ts, i, u, hi, hu, rfl⟩ | ⟨hsame, hgrid⟩ := (step_writes h).outputs_cases
  · exact ⟨fun _ => .inl ⟨hreset, rfl⟩, fun _ => .inl hreset, fun _ => .inl hreset⟩
  · refine ⟨fun hne => .inr ?_, fun hne => .inr ?_, fun hne => .inr ?_⟩
    · obtain heq | ⟨hver, hwriter⟩ := hu.gridVer_cases
      · exact absurd heq hne
      · refine ⟨hver, ?_⟩
        obtain rfl | rfl | ⟨m, rfl⟩ | rfl := hwriter
        exacts [.inl hi, .inr (.inl hi), .inr (.inr (.inl ⟨m, hi⟩)), .inr (.inr (.inr hi))]
    · obtain ⟨hvalid, hmask, hpen⟩ | rfl := hu.best_cases
      · exact absurd hne (by simp [hvalid, hmask, hpen])
      · exact hi
    · obtain heq | rfl | rfl | ⟨m, rfl⟩ | ⟨m, rfl⟩ | ⟨m, rfl⟩ | rfl := hu.grid_cases
      · exact absurd heq hne
      exacts [.inl hi, .inr (.inl hi), .inr (.inr (.inl ⟨m, hi⟩)), .inr (.inr (.inr (.inl ⟨m, hi⟩))),
        .inr (.inr (.inr (.inr (.inl ⟨m, hi⟩)))), .inr (.inr (.inr (.inr (.inr (.inl hi)))))]
  · refine ⟨fun hne => absurd hsame.gridVer hne, fun hne => ?_, fun hne => ?_⟩
    · exact absurd hne (by simp [hsame.bestValid, hsame.bestMask, hsame.bestPen])
    · obtain heq | hwrite := hgrid
      · exact absurd heq hne
      · exact .inr (.inr (.inr (.inr (.inr (.inr (.inr hwrite))))))

end Sys2Proof.Machine

/-! Idle accesses of the host: what each offset of the map reads as, and what a write to it stores. -/

namespace Sys2Proof.Machine

open Sys2Proof.Spec

/-! ## Idle writes -/

/-- While BUSY = 0, a host write reaches what its offset names (10_state.md R41). -/
theorem step_write_idle {s : State} {off : BitVec 20} {v : Word} {ts : List Turn} (hidle : s.pending = none) (h : WriteNext s off v ts) :
    step s = .next (State.writeTarget { s with turns := ts } v (.ofOffset off)) := by
  obtain ⟨hts, hoff⟩ := h
  rw [step_access hts, wordAccess, busAccess_write hoff, State.hostWrite_idle (s := { s with turns := ts }) hidle]

/-- While BUSY = 0, a host read returns what its offset names (10_state.md R22). -/
theorem step_read_idle {s : State} {off : BitVec 20} {ts : List Turn} (hidle : s.pending = none) (h : ReadNext s off ts) :
    step s = .next { s with turns := ts, rdata := s.readTarget (.ofOffset off) } := by
  obtain ⟨hts, hoff⟩ := h
  rw [step_access hts, wordAccess, busAccess_read hoff, State.hostRead_idle (s := { s with turns := ts }) hidle]
  exact congrArg (fun r => Host.Outcome.next { s with turns := ts, rdata := r }) (State.readTarget_host s ts s.rdata s.draws _)

/-- Membership in a list of offsets can be read off from the numbers. -/
theorem toNat_notMem_map {off : BitVec 20} {offs : List (BitVec 20)} (h : off ∉ offs) : off.toNat ∉ offs.map BitVec.toNat := by
  rwa [List.mem_map_of_injective fun a b => BitVec.eq_of_toNat_eq]

/-- An offset of the register file that is no read-write register ignores a write (10_state.md R41). -/
theorem State.writeTarget_ofRegister {o : Nat}
    (h : o ∉ [0x004, 0x008, 0x00C, 0x010, 0x020, 0x024, 0x028, 0x02C, 0x040, 0x044, 0x048, 0x04C, 0x050]) (s : State) (v : Word) :
    s.writeTarget v (.ofRegister o) = s := by
  unfold Target.ofRegister
  split
  case h_24 => split <;> rfl
  all_goals simp_all [State.writeTarget]

/-- A write outside the read-write registers, PRAM and GRID changes nothing (10_state.md R41, 20_memory.md R81). -/
theorem State.writeTarget_readOnly {off : BitVec 20}
    (hreg : off ∉ [0x004, 0x008, 0x00C, 0x010, 0x020, 0x024, 0x028, 0x02C, 0x040, 0x044, 0x048, 0x04C, 0x050])
    (hpram : ¬ (0x02000 ≤ off.toNat ∧ off.toNat < 0x03000)) (hgrid : ¬ (0x40000 ≤ off.toNat ∧ off.toNat < 0x80000)) (s : State) (v : Word) :
    s.writeTarget v (.ofOffset off) = s :=
  Target.ofOffset_elim (P := fun t => s.writeTarget v t = s) off
    (hreg := fun _ => writeTarget_ofRegister (toNat_notMem_map hreg) s v)
    (hexp := fun _ => rfl) (hlog := fun _ => rfl) (hpram := fun hlo hhi => absurd ⟨hlo, hhi⟩ hpram) (hbv := fun _ => rfl)
    (hcw := fun _ => rfl) (hgrid := fun hlo hhi => absurd ⟨hlo, hhi⟩ hgrid) (hbitmap := fun _ _ => rfl) (hnone := rfl)

/-- A GRID write changes at most the grid. -/
theorem State.writeGrid_eq (s : State) (x y : Nat) (v : Word) : s.writeGrid x y v = { s with grid := (s.writeGrid x y v).grid } := by
  unfold State.writeGrid; split <;> rfl

/-- A GRID write stores the module it names, if that is a module of the symbol (20_memory.md R78). -/
theorem State.get_writeGrid (s : State) (x y : Nat) (v : Word) {x' y' : Nat} (hx : x' < 177) (hy : y' < 177) :
    (s.writeGrid x y v).grid.get x' y' =
      if s.gridVer ≠ 0 ∧ x < side s.gridVer ∧ y < side s.gridVer ∧ x' = x ∧ y' = y then ⟨v.getLsbD 0, v.getLsbD 1⟩
      else s.grid.get x' y' := by
  unfold State.writeGrid
  split
  · next hin =>
    obtain ⟨hv, hsx, hsy⟩ := State.inSymbol_iff.1 hin
    rw [Grid.get_setModule]
    exact if_congr ⟨fun ⟨ex, ey, _, _⟩ => ⟨hv, hsx, hsy, ex, ey⟩, fun ⟨_, _, _, ex, ey⟩ => ⟨ex, ey, ex ▸ hx, ey ▸ hy⟩⟩ rfl rfl
  · next hin => rw [if_neg fun ⟨hv, hsx, hsy, _, _⟩ => hin (State.inSymbol_iff.2 ⟨hv, hsx, hsy⟩)]

/-- Settles O12: an idle write reaches the target that its offset names. -/
theorem idleWritesStoreTheirFields : Obligations.IdleWritesStoreTheirFields := by
  intro s off v ts hidle h
  rw [step_write_idle hidle h]
  refine ⟨?_, ?_, fun p hp => ?_, ?_, ?_, ?_, ?_, ?_, fun p i hp => ?_, fun x y hx hy hxy => ?_, fun hreg hpram hgrid => ?_⟩
  · rintro rfl hv
    exact congrArg _ (State.writeCtrl_of_not_sreset hv _)
  · rintro rfl; rfl
  · rw [Target.ofOffset_plen off p hp]; rfl
  · rintro rfl; rfl
  · rintro rfl; rfl
  · rintro rfl; rfl
  · rintro rfl; rfl
  · rintro rfl; rfl
  · rw [Target.ofOffset_pram off p i hp]; rfl
  · rw [Target.ofOffset_grid off x y hx hy hxy]
    exact ⟨_, congrArg Host.Outcome.next (State.writeGrid_eq { s with turns := ts } x y v),
      fun x' y' hx' hy' => State.get_writeGrid { s with turns := ts } x y v hx' hy'⟩
  · rw [State.writeTarget_readOnly hreg hpram hgrid]

/-! ## Idle reads -/

/-- The fields of STATUS, from bit 31 down (10_state.md R22). -/
theorem State.statusWord_eq (s : State) :
    s.statusWord = 0#16 ++ s.errcode ++ 0#5 ++ BitVec.ofBool s.err ++ BitVec.ofBool s.done ++ BitVec.ofBool s.busy := by
  rw [State.statusWord]
  ext j hj
  grind

/-- The fields of BEST, from bit 31 down (10_state.md R22). -/
theorem State.bestWord_eq (s : State) : s.bestWord = BitVec.ofBool s.bestValid ++ 0#28 ++ s.bestMask := by
  rw [State.bestWord]
  ext j hj
  grind

/-- The two bytes of SIZE hold the side and the side with the quiet zone (10_state.md R39). -/
theorem State.toNat_sizeWord {s : State} (h : s.gridVer.toNat ≤ 40) :
    s.sizeWord.toNat = if s.gridVer = 0 then 0 else side s.gridVer + 256 * (side s.gridVer + 8) := by
  have hs := side_le h
  rw [State.sizeWord]
  split
  · rfl
  · have happend (a b : Byte) : (0#16 ++ a ++ b).toNat = b.toNat + 256 * a.toNat := by
      rw [BitVec.toNat_append, BitVec.toNat_append, BitVec.toNat_ofNat, Nat.zero_mod, Nat.zero_shiftLeft, Nat.zero_or,
        ← Nat.shiftLeft_add_eq_or_of_lt b.isLt, Nat.shiftLeft_eq]
      omega
    rw [happend, BitVec.toNat_ofNat, BitVec.toNat_ofNat, Nat.mod_eq_of_lt (by omega), Config.quietZone, Nat.mod_eq_of_lt (by omega)]

theorem State.emptyCount_eq (s : State) : s.emptyCount = unusedModules s := by
  rw [State.emptyCount, Grid.empty_eq_card]; rfl

/-- EMPTY fits its register: GRID_VER has 6 bits (10_state.md R38). -/
theorem State.emptyCount_lt (s : State) : s.emptyCount < 2 ^ 32 := by
  have hside : side s.gridVer ≤ 273 := by have := s.gridVer.isLt; unfold side; omega
  rw [State.emptyCount]
  split
  · decide
  · rw [Grid.empty_eq_card]
    calc _ ≤ (Finset.range (side s.gridVer) ×ˢ Finset.range (side s.gridVer)).card := Finset.card_filter_le _ _
      _ = side s.gridVer * side s.gridVer := by rw [Finset.card_product, Finset.card_range]
      _ ≤ 273 * 273 := Nat.mul_le_mul hside hside
      _ < 2 ^ 32 := by decide

/-- Words 5 to 7 of a score slot are reserved (10_state.md R40). -/
theorem Scores.word_reserved (c : Scores) {r : Nat} (h : 5 ≤ r) : c.word r = 0 := by
  obtain ⟨k, rfl⟩ := Nat.exists_eq_add_of_le' h; rfl

theorem State.readTarget_score (s : State) {off : BitVec 20} (m : Fin 8) {r : Nat} (hr : r < 8)
    (hoff : off.toNat = 0x200 + 0x20 * m.val + 4 * r) : s.readTarget (.ofOffset off) = s.score[m].word r := by
  rw [Target.ofOffset_score off m r hr hoff]
  split
  · rfl
  · next h5 => rw [Scores.word_reserved _ (not_lt.1 h5)]; rfl

/-- Below the score slots an offset outside the map is reserved (10_state.md R22). -/
theorem Target.ofOffset_reserved {off : BitVec 20} (hlt : off.toNat < 0x200) (h : off ∉ registerOffsets) :
    Target.ofOffset off = .unmapped := by
  have hmem := toNat_notMem_map h
  unfold Target.ofOffset; dsimp only
  rw [if_pos (by omega)]
  unfold Target.ofRegister
  split
  case h_24 => exact dif_neg (by omega)
  all_goals simp_all [registerOffsets]

/-- Settles O10: an idle read returns the word of the register that its offset names. -/
theorem registerReadsFollowTheMap : Obligations.RegisterReadsFollowTheMap := by
  intro s off ts hidle h
  refine ⟨_, step_read_idle hidle h, ?_, ?_, ?_, ?_, ?_, ?_, ?_, fun p hp => ?_, ?_, ?_, ?_, ?_, ?_, ?_, ?_, ?_, ?_, ?_, ?_, ?_,
    fun m hm => ?_, fun m hm => ?_, fun m hm => ?_, fun m hm => ?_, fun m hm => ?_, fun m r h5 h8 hm => ?_, fun hlt hreg => ?_⟩
  · rintro rfl; rfl
  · rintro rfl; exact BitVec.setWidth_eq_append (x := BitVec.ofBool s.irqEn) (by decide)
  · rintro rfl; exact (State.statusWord_eq s).trans (by rw [State.busy, hidle]; rfl)
  · rintro rfl; rfl
  · rintro rfl; rfl
  · rintro rfl; rfl
  · rintro rfl; rfl
  · rw [Target.ofOffset_plen off p hp]; exact BitVec.setWidth_eq_append (x := s.polys[p].len) (by decide)
  · rintro rfl; exact BitVec.setWidth_eq_append (x := s.bv.len) (by decide)
  · rintro rfl; exact BitVec.setWidth_eq_append (x := s.cw.len) (by decide)
  · rintro rfl; exact BitVec.setWidth_eq_append (x := s.version) (by decide)
  · rintro rfl; exact BitVec.setWidth_eq_append (x := s.level) (by decide)
  · rintro rfl; rfl
  · rintro rfl; rfl
  · rintro rfl; exact BitVec.setWidth_eq_append (x := s.rembits) (by decide)
  · rintro rfl; exact BitVec.setWidth_eq_append (x := s.gridVer) (by decide)
  · rintro rfl; exact State.bestWord_eq s
  · rintro rfl; rfl
  · rintro rfl; exact (Nat.mod_eq_of_lt s.emptyCount_lt).trans s.emptyCount_eq
  · rintro rfl hv; exact State.toNat_sizeWord hv
  · exact s.readTarget_score m (r := 0) (by omega) (by omega)
  · exact s.readTarget_score m (r := 1) (by omega) (by omega)
  · exact s.readTarget_score m (r := 2) (by omega) (by omega)
  · exact s.readTarget_score m (r := 3) (by omega) (by omega)
  · exact s.readTarget_score m (r := 4) (by omega) (by omega)
  · exact (s.readTarget_score m h8 hm).trans (Scores.word_reserved _ h5)
  · rw [Target.ofOffset_reserved hlt hreg]; rfl
end Sys2Proof.Machine

/-! Which accesses and turns have a step, and what the host's reads give: while BUSY = 1, and through the windows while BUSY = 0. -/

namespace Sys2Proof.Machine

open Sys2Proof.Spec

/-! ## The bus contract -/

theorem Access.wellFormed_iff {a : Access} :
    a.wellFormed = true ↔ a.width = .bits32 ∧ a.enables = 0xF ∧ a.off.toNat % 4 = 0 := by
  simp [Access.wellFormed, and_assoc]

/-- An access inside the bus contract has a step (20_memory.md R72). -/
theorem busAccess_next {a : Access} (h : a.wellFormed = true) (s : State) : ∃ t, busAccess a s = .next t := by
  obtain ⟨hwidth, hbytes, haligned⟩ := Access.wellFormed_iff.1 h
  obtain ⟨hout, -⟩ | ⟨-, -, -, ⟨-, hr⟩ | ⟨v, -, hw⟩⟩ := busAccess_cases a s
  · exact absurd hout (by simp [hwidth, hbytes, haligned])
  · exact ⟨_, hr⟩
  · exact ⟨_, hw⟩

/-- An access outside the bus contract has none (20_memory.md R72). -/
theorem busAccess_refused {a : Access} (h : a.width ≠ .bits32 ∨ a.enables ≠ 0xF ∨ a.off.toNat % 4 ≠ 0) (s : State) :
    ∃ r, busAccess a s = .refused r := by
  obtain ⟨-, hr⟩ | ⟨hwidth, hbytes, haligned, -⟩ := busAccess_cases a s
  · exact hr
  · exact absurd h (by simp [hwidth, hbytes, haligned])

/-- Settles O17, by the cases of a bus access. -/
theorem accessesOutsideTheContractAreRefused : Obligations.AccessesOutsideTheContractAreRefused := by
  intro s a ts hts
  rw [step_access hts]
  exact ⟨fun hout => busAccess_refused hout _,
    fun hwidth hbytes haligned => busAccess_next (Access.wellFormed_iff.2 ⟨hwidth, hbytes, haligned⟩) _⟩

/-! ## Progress -/

/-- Every command, with or without an error, ends in a next state (60_exceptions.md R311, R316). -/
theorem exec_answers_next (i : Instr) (s : State) : ∃ t, exec i s = .next t := by
  obtain ⟨e, he⟩ | ⟨u, hu, -⟩ := exec_ends i s
  · exact ⟨_, he⟩
  · exact ⟨_, hu⟩

theorem runCommand_answers_next (w : Word) (s : State) : ∃ t, runCommand w s = .next t := by
  obtain ⟨i, -, hi⟩ | ⟨-, htrap⟩ := runCommand_cases (w := w) (s := s) rfl
  · rw [hi]; exact exec_answers_next i s
  · exact ⟨_, htrap⟩

theorem sequencerTurn_answers_next (s : State) : ∃ t, sequencerTurn s = .next t := by
  unfold sequencerTurn
  split
  · exact runCommand_answers_next _ s
  · exact ⟨s, rfl⟩

theorem takeTurn_answers_next {t : Turn} (h : t.wellFormed = true) (s : State) : ∃ u, takeTurn t s = .next u := by
  cases t with
  | access a => exact busAccess_next h s
  | hardReset => exact ⟨_, rfl⟩
  | sequencer => exact sequencerTurn_answers_next s

/-- Settles O18: the next turn answers a next state, and so does the sequencer's step once the turns are used up. -/
theorem stepsInsideTheContractAnswerNext : Obligations.StepsInsideTheContractAnswerNext := by
  intro s h
  unfold step
  split
  · exact sequencerTurn_answers_next s
  · next t ts hts => exact takeTurn_answers_next (h t ts hts) _

/-! ## Reads at any time -/

theorem step_read {s : State} {off : BitVec 20} {ts : List Turn} (h : ReadNext s off ts) :
    step s = .next (State.hostRead { s with turns := ts } off) := by
  obtain ⟨hts, hoff⟩ := h
  rw [step_access hts, wordAccess, busAccess_read hoff]

/-- What an idle read returns depends on no turn, read or draw before it (20_memory.md R82). -/
theorem step_read_idle_host {s : State} {off : BitVec 20} (hidle : s.pending = none) (hoff : off.toNat % 4 = 0) (ts : List Turn)
    (r : Word) (d : Nat) :
    step { s with turns := .access (wordAccess off .read) :: ts, rdata := r, draws := d } =
      .next { s with turns := ts, rdata := s.readTarget (.ofOffset off), draws := d } := by
  have hread := step_read_idle (s := { s with turns := .access (wordAccess off .read) :: ts, rdata := r, draws := d }) hidle ⟨rfl, hoff⟩
  rwa [State.readTarget_host] at hread

/-- Settles O9: a read changes the read data and the draw counter at most, and neither enters what an idle read returns. -/
theorem readsHaveNoSideEffects : Obligations.ReadsHaveNoSideEffects := by
  intro s off ts h
  refine ⟨_, step_read h, State.hostRead_eq _ off, fun hidle => ?_⟩
  rw [State.hostRead_idle (s := { s with turns := ts }) hidle]
  exact ⟨rfl, fun ts' => step_read_idle_host hidle h.2 ts' _ s.draws⟩

/-! ## Reads while BUSY = 1 -/

theorem State.hostRead_defined {off : BitVec 20} (h : (Target.ofOffset off).definedWhileBusy = true) (s : State) :
    s.hostRead off = { s with rdata := s.readTarget (.ofOffset off) } := by
  simp [State.hostRead, h]

/-- While BUSY = 1 every other offset reads as a free draw (20_memory.md R90). -/
theorem State.hostRead_free {s : State} (hbusy : s.pending ≠ none) {off : BitVec 20}
    (h : (Target.ofOffset off).definedWhileBusy = false) :
    s.hostRead off = { s with rdata := Config.freeWord s.draws, draws := s.draws + 1 } := by
  have hb : s.busy = true := Option.isSome_iff_ne_none.2 hbusy
  simp [State.hostRead, h, hb]

/-- A read that stays defined while BUSY = 1 returns what its offset names, at any time (20_memory.md R90). -/
theorem step_read_defined {s : State} {off : BitVec 20} {ts : List Turn} {t : Target} (h : ReadNext s off ts)
    (ht : Target.ofOffset off = t) (hdef : t.definedWhileBusy = true) : step s = .next { s with turns := ts, rdata := s.readTarget t } := by
  rw [step_read h, State.hostRead_defined (by rw [ht, hdef]), State.readTarget_host, ht]

/-- Settles O8: an offset is one of the five that stay defined, or its read is a draw. -/
theorem readsWhileBusy : Obligations.ReadsWhileBusy := by
  intro s off ts hbusy h
  refine ⟨?_, ?_, ?_, ?_, ?_, fun hoff => ?_⟩
  · rintro rfl; exact step_read_defined h Target.ofOffset_id rfl
  · rintro rfl; exact step_read_defined h Target.ofOffset_ctrl rfl
  · rintro rfl
    have hb : s.busy = true := Option.isSome_iff_ne_none.2 hbusy
    rw [step_read_defined h Target.ofOffset_status rfl, State.readTarget, State.statusWord_eq, hb]; rfl
  · rintro rfl; exact step_read_defined h Target.ofOffset_cmd rfl
  · rintro rfl; exact step_read_defined h Target.ofOffset_errinfo rfl
  · have hdef : (Target.ofOffset off).definedWhileBusy = false := by
      rw [← Bool.not_eq_true, Target.definedWhileBusy_iff]
      simpa using hoff
    rw [step_read h, State.hostRead_free (s := { s with turns := ts }) hbusy hdef]

/-! ## Window reads while BUSY = 0 -/

/-- A bit that a read path shows is masked by the length (20_memory.md R77, R80). -/
theorem BitRam.bitm_eq (r : BitRam) (k : Nat) : r.bitm k = (decide (k < r.len.toNat) && r.bit k) := by
  rw [BitRam.bitm]
  split <;> simp [*]

/-- The two bits of a GRID word are used and val (20_memory.md R78). -/
theorem State.gridWord_eq (s : State) (x y : Nat) :
    s.gridWord x y =
      if s.gridVer ≠ 0 ∧ x < sideOf s.gridVer ∧ y < sideOf s.gridVer then
        0#30 ++ BitVec.ofBool (s.grid.get x y).used ++ BitVec.ofBool (s.grid.get x y).val
      else 0 := by
  have hfields : ∀ val used : Bool, ofBit val ||| (ofBit used <<< 1) = 0#30 ++ BitVec.ofBool used ++ BitVec.ofBool val := by decide
  exact if_congr State.inSymbol_iff (hfields _ _) rfl

/-- A BITMAP word is the module 4 to the left and 4 above, inside the quiet zone (20_memory.md R79). -/
theorem State.bitmapWord_eq (s : State) (x y : Nat) :
    s.bitmapWord x y =
      if s.gridVer ≠ 0 ∧ 4 ≤ x ∧ x < sideOf s.gridVer + 4 ∧ 4 ≤ y ∧ y < sideOf s.gridVer + 4 then
        0#31 ++ BitVec.ofBool (s.grid.get (x - 4) (y - 4)).val
      else 0 := by
  have hinside : (4 ≤ x ∧ 4 ≤ y ∧ s.inSymbol (x - 4) (y - 4) = true) ↔
      s.gridVer ≠ 0 ∧ 4 ≤ x ∧ x < side s.gridVer + 4 ∧ 4 ≤ y ∧ y < side s.gridVer + 4 := by
    rw [State.inSymbol_iff]
    constructor
    · rintro ⟨hx, hy, hv, hsx, hsy⟩
      exact ⟨hv, hx, by omega, hy, by omega⟩
    · rintro ⟨hv, hx, hsx, hy, hsy⟩
      exact ⟨hx, hy, hv, by omega, by omega⟩
  exact if_congr hinside (BitVec.setWidth_eq_append (x := BitVec.ofBool _) (by decide)) rfl

/-- Settles O11: an idle read returns the word of the window that its offset names. -/
theorem windowReadsFollowTheMap : Obligations.WindowReadsFollowTheMap := by
  intro s off ts hidle h
  refine ⟨_, step_read_idle hidle h, fun p i hoff => ?_, fun w j hw hj hoff => ?_, fun w j hw hj hoff => ?_,
    fun x y hx hy hoff => ?_, fun x y hx hy hoff => ?_, fun hoff => ?_⟩
  · rw [Target.ofOffset_pram off p i hoff]; exact BitVec.setWidth_eq_append (x := s.polys[p].c[i]) (by decide)
  · rw [Target.ofOffset_bvWindow off w hw hoff]; exact (s.bv.getLsbD_window w j hj).trans (s.bv.bitm_eq _)
  · rw [Target.ofOffset_cwWindow off w hw hoff]; exact (s.cw.getLsbD_window w j hj).trans (s.cw.bitm_eq _)
  · rw [Target.ofOffset_grid off x y hx hy hoff]; exact s.gridWord_eq x y
  · rw [Target.ofOffset_bitmap off x y hx hy hoff]; exact s.bitmapWord_eq x y
  · rw [Target.ofOffset_unmapped off hoff]; rfl

end Sys2Proof.Machine

/-! The decoder and the encoder of a command word are inverse to each other, and the words that decode are those of the opcode table. -/

namespace Sys2Proof

/-! ## Words and their fields -/

/-- A word is its OP and its fields (30_encoding.md R101). -/
theorem word_eq_iff {w v : Word} : w = v ↔ opcodeOf w = opcodeOf v ∧ Fields.ofWord w = Fields.ofWord v :=
  ⟨fun h => h ▸ ⟨rfl, rfl⟩, fun ⟨hop, hf⟩ => by rw [← Fields.toWord_ofWord w, hop, hf, Fields.toWord_ofWord]⟩

theorem opcodeOf_zext (op : Byte) : opcodeOf (zext op) = op := by
  simp [opcodeOf, BitVec.extractLsb'_setWidth_of_le]

theorem Fields.ofWord_zext (op : Byte) : Fields.ofWord (zext op) = {} := by
  have := Fields.ofWord_toWord op {}
  simpa [Fields.toWord] using this

theorem opcodeOf_and (w v : Word) : opcodeOf (w &&& v) = opcodeOf w &&& opcodeOf v :=
  BitVec.extractLsb'_and

/-- A format's mask fixes the whole of OP (30_encoding.md R102). -/
theorem Format.opcodeOf_mask (fmt : Format) : opcodeOf fmt.mask = BitVec.allOnes 8 := by
  cases fmt <;> rfl

/-- A format's mask fixes RSV and each field that the format does not use (30_encoding.md R102). -/
theorem Format.ofWord_mask (fmt : Format) : Fields.ofWord fmt.mask =
    { rd := bif fmt.usesRd then 0 else BitVec.allOnes 2
      ra := bif fmt.usesRa then 0 else BitVec.allOnes 2
      rb := bif fmt.usesRb then 0 else BitVec.allOnes 2
      rsv := BitVec.allOnes 2
      i1 := bif fmt.usesI1 then 0 else BitVec.allOnes 8
      i2 := bif fmt.usesI2 then 0 else BitVec.allOnes 8 } := by
  cases fmt <;> rfl

/-- A field under its part of a mask is 0 if the format uses it or the field is 0. -/
theorem and_mask_eq_zero_iff {n : Nat} (used : Bool) (v : BitVec n) :
    v &&& (bif used then 0 else BitVec.allOnes n) = 0 ↔ (used || v == 0) = true := by
  cases used <;> simp

theorem Fields.ofWord_and_mask (w : Word) (fmt : Format) :
    Fields.ofWord (w &&& fmt.mask) = {} ↔ (Fields.ofWord w).wellFormed fmt = true := by
  have hmask := fmt.ofWord_mask
  simp only [Fields.ofWord, Fields.mk.injEq] at hmask
  obtain ⟨hrd, hra, hrb, hrsv, hi1, hi2⟩ := hmask
  simp only [Fields.ofWord, BitVec.extractLsb'_and, hrd, hra, hrb, hrsv, hi1, hi2, Fields.mk.injEq, and_mask_eq_zero_iff,
    BitVec.and_allOnes, Fields.wellFormed, Bool.and_eq_true, beq_iff_eq]
  tauto

/-- A word matches a row of the opcode table exactly when OP is the row's and the fields are well formed for the row's format
(30_encoding.md R102, R105). -/
theorem and_mask_eq_zext_iff {w : Word} {fmt : Format} {op : Byte} :
    w &&& fmt.mask = zext op ↔ opcodeOf w = op ∧ (Fields.ofWord w).wellFormed fmt = true := by
  rw [word_eq_iff, opcodeOf_and, fmt.opcodeOf_mask, BitVec.and_allOnes, opcodeOf_zext, Fields.ofWord_zext, Fields.ofWord_and_mask]

/-! ## Rows of the opcode map -/

/-- What is said of every command's encoded word, for all commands. -/
theorem Instr.encodedWord (i : Instr) : Laws.EncodedWord.Statement i :=
  match i with
  | .nop => Laws.EncodedWord.nop
  | .gfMul a b => Laws.EncodedWord.gfMul a b
  | .gfDiv a b => Laws.EncodedWord.gfDiv a b
  | .gfInv a => Laws.EncodedWord.gfInv a
  | .pAdd rd ra rb => Laws.EncodedWord.pAdd rd ra rb
  | .pMul rd ra rb => Laws.EncodedWord.pMul rd ra rb
  | .pRem rd ra rb => Laws.EncodedWord.pRem rd ra rb
  | .pMono rd c k => Laws.EncodedWord.pMono rd c k
  | .pGen rd n => Laws.EncodedWord.pGen rd n
  | .pRsenc rd ra n => Laws.EncodedWord.pRsenc rd ra n
  | .bvClear => Laws.EncodedWord.bvClear
  | .bvAppend n => Laws.EncodedWord.bvAppend n
  | .bvAt => Laws.EncodedWord.bvAt
  | .bvByteat => Laws.EncodedWord.bvByteat
  | .eccInterleave => Laws.EncodedWord.eccInterleave
  | .gridClear => Laws.EncodedWord.gridClear
  | .gridStruct => Laws.EncodedWord.gridStruct
  | .gridMeta m => Laws.EncodedWord.gridMeta m
  | .gridData m => Laws.EncodedWord.gridData m
  | .gridBuild m => Laws.EncodedWord.gridBuild m
  | .gridScore m => Laws.EncodedWord.gridScore m
  | .maskSearch => Laws.EncodedWord.maskSearch

/-- A row of the opcode map answers a command of its own OP, whose fields are those it was filled with, if they are well formed
(30_encoding.md R104). -/
theorem Instr.of_ofOpcode {op : Byte} {f : Fields} {i : Instr} (h : Instr.ofOpcode op f = some i)
    (hf : f.wellFormed i.format = true) : i.opcode = op ∧ i.fields = f := by
  obtain ⟨rd, ra, rb, rsv, i1, i2⟩ := f
  unfold Instr.ofOpcode at h
  split at h <;> cases h
  all_goals
    next hop =>
    refine ⟨BitVec.eq_of_toNat_eq hop.symm, ?_⟩
    simp only [Fields.wellFormed, Instr.format, Format.usesRd, Format.usesRa, Format.usesRb, Format.usesI1, Format.usesI2,
      Bool.true_or, Bool.false_or, Bool.and_true, Bool.and_eq_true, beq_iff_eq] at hf
    simp [Instr.fields, hf]

/-- The row of a command's OP answers a command of that format, whatever the fields (30_encoding.md R104). -/
theorem Instr.ofOpcode_opcode (i : Instr) (f : Fields) : ∃ j, Instr.ofOpcode i.opcode f = some j ∧ j.format = i.format := by
  cases i <;> exact ⟨_, rfl, rfl⟩

/-! ## The decoder -/

/-- A word decodes to the command of its OP's row, if its fields are well formed for the row's format (30_encoding.md R105). -/
theorem decode_eq_ok_iff {w : Word} {i : Instr} :
    decode w = .ok i ↔ Instr.ofOpcode (opcodeOf w) (.ofWord w) = some i ∧ (Fields.ofWord w).wellFormed i.format = true := by
  unfold decode
  split
  · next hnone => simp [hnone]
  · next j hj =>
    simp only [hj, and_mask_eq_zext_iff, true_and, Option.some.injEq]
    split
    · next hwf =>
      rw [Except.ok.injEq]
      exact ⟨fun h => ⟨h, h ▸ hwf⟩, And.left⟩
    · next hwf => exact ⟨nofun, fun ⟨h, hi⟩ => absurd (h ▸ hi) hwf⟩

theorem decode_encode (i : Instr) : decode (encode i) = .ok i := by
  obtain ⟨hwf, hrow, -⟩ := i.encodedWord
  rw [decode_eq_ok_iff, encode, opcodeOf_toWord, Fields.ofWord_toWord]
  exact ⟨hrow, hwf⟩

theorem encode_eq_of_decode {w : Word} {i : Instr} (h : decode w = .ok i) : encode i = w := by
  obtain ⟨hrow, hwf⟩ := decode_eq_ok_iff.1 h
  obtain ⟨hop, hf⟩ := Instr.of_ofOpcode hrow hwf
  rw [encode, hop, hf, Fields.toWord_ofWord]

/-- The decoder and the encoder are inverse to each other (30_encoding.md R105, R111). -/
theorem decode_eq_ok_iff_encode_eq {w : Word} {i : Instr} : decode w = .ok i ↔ encode i = w :=
  ⟨encode_eq_of_decode, fun h => h ▸ decode_encode i⟩

/-- A word is a command exactly when it matches the row of some command (30_encoding.md R105). -/
theorem exists_decode_iff {w : Word} : (∃ i, decode w = .ok i) ↔ ∃ i : Instr, w &&& i.format.mask = zext i.opcode := by
  constructor
  · rintro ⟨i, h⟩
    obtain rfl := encode_eq_of_decode h
    obtain ⟨-, -, hmask⟩ := i.encodedWord
    exact ⟨i, hmask⟩
  · rintro ⟨i, h⟩
    obtain ⟨hop, hwf⟩ := and_mask_eq_zext_iff.1 h
    obtain ⟨j, hj, hfmt⟩ := i.ofOpcode_opcode (.ofWord w)
    exact ⟨j, decode_eq_ok_iff.2 ⟨hop ▸ hj, hfmt ▸ hwf⟩⟩

/-- Settles O2, by the command's row and the well-formed fields of its word. -/
theorem decodeOfEncodeIsTheCommand : Obligations.DecodeOfEncodeIsTheCommand := decode_encode

/-- Settles O3: OP and the fields of the word are the command's. -/
theorem encodeOfDecodeIsTheWord : Obligations.EncodeOfDecodeIsTheWord := fun _ _ => encode_eq_of_decode

/-- Settles O1: each word is the encoding of its command. -/
theorem specWordsDecodeToTheirCommands : Obligations.SpecWordsDecodeToTheirCommands := by
  refine ⟨?_, ?_, ?_, ?_, ?_, ?_, ?_, ?_, ?_, ?_, ?_, ?_⟩ <;> exact decode_eq_ok_iff_encode_eq.2 (by decide)

end Sys2Proof

/-! The rows of the opcode table, and the step of a word that is no command. -/

namespace Sys2Proof.Machine

open Sys2Proof.Spec

/-! ## The opcode table -/

/-- The rows of the opcode table are those of the commands (30_encoding.md R102, R104). -/
theorem mem_opcodeRows_iff {r : Word × Word} : r ∈ opcodeRows ↔ ∃ i : Instr, (zext i.opcode, i.format.mask) = r := by
  constructor
  · have hall : (opcodeRows.all fun r =>
        (Instr.ofOpcode (opcodeOf r.1) {}).any fun i => (zext i.opcode, i.format.mask) == r) = true := by decide
    intro hr
    obtain ⟨i, -, hi⟩ := (Option.any_eq_true _ _).1 (List.all_eq_true.1 hall r hr)
    exact ⟨i, eq_of_beq hi⟩
  · rintro ⟨i, rfl⟩
    cases i <;> simp [opcodeRows, Instr.opcode, Instr.format, Format.mask]

theorem exists_decode_iff_opcodeRows {w : Word} : (∃ i, decode w = .ok i) ↔ ∃ r ∈ opcodeRows, w &&& r.2 = r.1 := by
  simp only [exists_decode_iff, mem_opcodeRows_iff, exists_exists_eq_and]

/-! ## Error entry -/

/-- The entry of an error at the step of the pending word w (60_exceptions.md R311). -/
theorem State.raise_eq_faulted {s : State} {w : Word} (hw : s.pending = some w) (e : ErrCode) : s.raise e = faulted s w e.code := by
  unfold State.raise State.recordError faulted State.commandWord
  cases herr : s.err <;> simp [hw, herr]

/-- A pending word that is no command raises ILLEGAL_CMD (30_encoding.md R105). -/
theorem raisesIllegal_of_not_decode {w : Word} (h : ¬ ∃ i, decode w = .ok i) : RaisesIllegal w := by
  intro s ts hw hts
  rw [step_sequencer hw hts]
  obtain ⟨i, hi, -⟩ | ⟨-, htrap⟩ := runCommand_cases (w := w) (s := { s with turns := ts }) rfl
  · exact absurd ⟨i, hi⟩ h
  · rw [htrap, State.raise_eq_faulted (s := { s with turns := ts }) hw]; rfl

/-- Settles O4: the table's rows are the commands', and a word without a command ends in the error's entry. -/
theorem unmatchedWordsRaiseIllegalCmd : Obligations.UnmatchedWordsRaiseIllegalCmd := by
  refine ⟨fun w => exists_decode_iff_opcodeRows, fun s w ts hw hts hrows => ?_⟩
  have hno : ¬ ∃ i, decode w = .ok i := by
    rw [exists_decode_iff_opcodeRows]
    exact fun ⟨r, hr, hmatch⟩ => hrows r hr hmatch
  exact raisesIllegal_of_not_decode hno s ts hw hts

end Sys2Proof.Machine

/-! The pending command and the host's writes: what a CMD write does, what a write does while BUSY = 1, and how the pending command
ends at the sequencer's step. -/

namespace Sys2Proof.Machine

open Sys2Proof.Spec

/-! ## The pending command -/

theorem runCommand_of_decode {w : Word} {i : Instr} (h : decode w = .ok i) (s : State) : runCommand w s = exec i s := by
  rw [runCommand, h]

/-- Every command, with or without an error, clears BUSY (40_command.md R133, 60_exceptions.md R311). -/
theorem exec_clears_pending (i : Instr) (s : State) : ∃ t, exec i s = .next t ∧ t.pending = none := by
  obtain ⟨e, he⟩ | ⟨u, hu, -⟩ := exec_ends i s
  · exact ⟨_, he, s.raise_pending e⟩
  · exact ⟨_, hu, u.complete_pending⟩

/-- A pending word ends at its step, whether it is a command or not (30_encoding.md R105). -/
theorem runCommand_clears_pending (w : Word) (s : State) : ∃ t, runCommand w s = .next t ∧ t.pending = none := by
  obtain ⟨i, -, hi⟩ | ⟨-, htrap⟩ := runCommand_cases (w := w) (s := s) rfl
  · rw [hi]; exact exec_clears_pending i s
  · exact ⟨_, htrap, s.raise_pending _⟩

/-- While BUSY = 1, the sequencer's step clears BUSY (40_command.md R132, R133). -/
theorem step_sequencer_clears_pending {s : State} {ts : List Turn} (hbusy : s.pending ≠ none) (h : SequencerNext s ts) :
    ∃ t, step s = .next t ∧ t.pending = none := by
  obtain ⟨w, hw⟩ := Option.ne_none_iff_exists'.1 hbusy
  rw [step_sequencer hw h]
  exact runCommand_clears_pending w _

/-- Settles O5: the sequencer's step runs the pending word, which decodes. -/
theorem stepRunsTheDecodedCommand : Obligations.StepRunsTheDecodedCommand := by
  intro s w i ts hw hts hi
  rw [step_sequencer hw hts, runCommand_of_decode hi]

/-! ## NOP -/

/-- OP is the low byte of a word (30_encoding.md R101). -/
theorem opcodeOf_eq_zero {w : Word} (h : w &&& 0xFF = 0) : opcodeOf w = 0 :=
  calc opcodeOf w = opcodeOf w &&& BitVec.allOnes 8 := BitVec.and_allOnes.symm
    _ = opcodeOf (w &&& 0xFF) := (opcodeOf_and w 0xFF).symm
    _ = 0 := by rw [h]; rfl

/-- The row of OP 0x00 is NOP's, and NOP has one word (30_encoding.md R104, 40_command.md R138). -/
theorem eq_zero_of_decode {w : Word} {i : Instr} (hop : opcodeOf w = 0) (h : decode w = .ok i) : w = 0 := by
  obtain ⟨hrow, -⟩ := decode_eq_ok_iff.1 h
  obtain rfl : .nop = i := by rw [hop] at hrow; exact Option.some.inj hrow
  exact (encode_eq_of_decode h).symm.trans (by decide)

/-- Settles O27: a word with OP 0x00 that is a command is NOP's word, and NOP is only a completion. -/
theorem nopOnlyCompletes : Obligations.NopOnlyCompletes :=
  ⟨decode_eq_ok_iff_encode_eq.2 (by decide),
    fun _ hlow hne => raisesIllegal_of_not_decode fun ⟨_, hi⟩ => hne (eq_zero_of_decode (opcodeOf_eq_zero hlow) hi),
    fun _ => rfl⟩

/-! ## Writes while BUSY = 1 -/

theorem step_write {s : State} {off : BitVec 20} {v : Word} {ts : List Turn} (h : WriteNext s off v ts) :
    step s = .next (State.hostWrite { s with turns := ts } off v) := by
  obtain ⟨hts, hoff⟩ := h
  rw [step_access hts, wordAccess, busAccess_write hoff]

/-- While BUSY = 1, a write to anything but CTRL and STATUS is refused (40_command.md R136). -/
theorem step_write_busy {s : State} {off : BitVec 20} {v : Word} {ts : List Turn} (hbusy : s.pending ≠ none) (h : WriteNext s off v ts)
    (h4 : off ≠ 0x004) (h8 : off ≠ 0x008) : step s = .next (State.refuseWrite { s with turns := ts } off) := by
  rw [step_write h, State.hostWrite_busy (s := { s with turns := ts }) hbusy h4 h8]

theorem step_write_ctrl {s : State} {v : Word} {ts : List Turn} (h : WriteNext s 0x004 v ts) :
    step s = .next (State.writeCtrl { s with turns := ts } v) := by
  rw [step_write h]; exact congrArg _ (State.hostWrite_ctrl _ v)

theorem step_write_status {s : State} {v : Word} {ts : List Turn} (h : WriteNext s 0x008 v ts) :
    step s = .next (State.writeStatus { s with turns := ts } v) := by
  rw [step_write h]; exact congrArg _ (State.hostWrite_status _ v)

/-- While BUSY = 1, no write but one to CTRL touches the pending command (40_command.md R136). -/
theorem State.hostWrite_pending {s : State} (hbusy : s.pending ≠ none) {off : BitVec 20} (h4 : off ≠ 0x004) (v : Word) :
    (s.hostWrite off v).pending = s.pending := by
  by_cases h8 : off = 0x008
  · obtain rfl := h8
    exact (congrArg State.pending (s.hostWrite_status v)).trans (s.writeStatus_pending v)
  · rw [State.hostWrite_busy hbusy h4 h8, State.refuseWrite_pending]

/-- Settles O7: CTRL and STATUS are written at any time, every other write is refused, and the pending command still has its step. -/
theorem writesWhileBusyAreRefused : Obligations.WritesWhileBusyAreRefused := by
  intro s off v ts hbusy h
  refine ⟨fun h4 h8 => ?_, ?_, ?_, ?_, fun h4 t ts' ht hseq => ?_⟩
  · rw [step_write_busy hbusy h h4 h8]; rfl
  · rintro rfl; exact step_write_status h
  · rintro rfl hv
    rw [step_write_ctrl h, State.writeCtrl_of_not_sreset hv]
  · rintro rfl hv
    exact ⟨_, step_write_ctrl h, by rw [State.writeCtrl_of_sreset hv]; exact ⟨rfl, rfl⟩⟩
  · obtain rfl := Host.Outcome.next.inj ((step_write h).symm.trans ht)
    have hkept := State.hostWrite_pending (s := { s with turns := ts }) hbusy h4 v
    exact ⟨hkept, step_sequencer_clears_pending (hkept.trans_ne hbusy) hseq⟩

/-! ## CMD writes -/

/-- While BUSY = 0, a CMD write offers its word as a command (40_command.md R131). -/
theorem step_write_cmd_idle {s : State} {w : Word} {ts : List Turn} (hidle : s.pending = none) (h : WriteNext s 0x00C w ts) :
    step s = .next (State.offerCommand { s with turns := ts } w) := by
  rw [step_write_idle hidle h, show Target.ofOffset 0x00C = .cmd from Target.ofOffset_cmd, State.writeTarget]

/-- Settles O6: a CMD write while BUSY = 1 is refused, and while BUSY = 0 it is an offer that ERR drops. -/
theorem commandWriteHasThreeOutcomes : Obligations.CommandWriteHasThreeOutcomes := by
  intro s w ts h
  refine ⟨fun hbusy => ?_, fun hidle herr => ?_, fun hidle herr => ?_⟩
  · rw [step_write_busy hbusy h (by decide) (by decide)]; rfl
  · rw [step_write_cmd_idle hidle h]; exact congrArg _ (if_pos herr)
  · rw [step_write_cmd_idle hidle h]; exact congrArg _ (if_neg (Bool.eq_false_iff.1 herr))

end Sys2Proof.Machine

/-! GF(2^8): the tables are the powers of the generator and their logarithms, the field laws, and the three field commands. -/

namespace Sys2Proof.Machine

open Sys2Proof.Spec

/-! ## The tables -/

/-- A byte, zero-extended to a word. -/
theorem zext_byte (v : Byte) : zext v = 0#24 ++ v := BitVec.setWidth_eq_append (by decide)

/-- Multiplication by the generator 2, modulo x^8 + x^4 + x^3 + x^2 + 1 (41_gf256.md R150). -/
def xtime (x : Byte) : Byte := (x <<< 1) ^^^ (if x.getLsbD 7 then 0x1D else 0)

/-- EXP lists the powers of the generator, and power 255 is power 0 (41_gf256.md R150). -/
theorem xtime_expAt : ∀ i, i < 255 → xtime (expAt i) = expAt ((i + 1) % 255) := by decide +kernel

theorem logAt_expAt : ∀ i, i < 255 → logAt (expAt i) = i := by decide +kernel

theorem logAt_lt : ∀ a, logAt a < 255 := by decide +kernel

theorem expAt_logAt : ∀ a, a ≠ 0 → expAt (logAt a) = a := by decide +kernel

/-- Every nonzero byte is a power of the generator. -/
theorem exists_expAt_eq {a : Byte} (ha : a ≠ 0) : ∃ i, i < 255 ∧ expAt i = a := ⟨logAt a, logAt_lt a, expAt_logAt a ha⟩

/-- Settles O28: the tables are EXP and LOG, and an idle read returns the entry that its offset names. -/
theorem gfTablesAreTheSpecs : Obligations.GfTablesAreTheSpecs := by
  refine ⟨expAt, fun i => logTable.getD i 0, rfl, fun i hi => ?_, rfl, logAt_expAt, rfl,
    fun s off ts i hidle h hi => ⟨fun hoff => ?_, fun hoff => ?_⟩⟩
  · have hmod : (i + 1) % 255 = i + 1 := Nat.mod_eq_of_lt (by omega)
    rw [← hmod]
    exact (xtime_expAt i (by omega)).symm
  · rw [step_read_idle hidle h, Target.ofOffset_expRom off i hi hoff, State.readTarget, zext_byte]
  · rw [step_read_idle hidle h, Target.ofOffset_logRom off i hi hoff, State.readTarget, zext_byte]

/-! ## The field operations on powers of the generator -/

theorem gfmul_expAt {i j : Nat} (hi : i < 255) (hj : j < 255) : gfmul (expAt i) (expAt j) = expAt ((i + j) % 255) := by
  have hne : ¬ (expAt i = 0 ∨ expAt j = 0) := not_or.2 ⟨expAt_ne_zero i hi, expAt_ne_zero j hj⟩
  rw [gfmul, if_neg hne, logAt_expAt i hi, logAt_expAt j hj]

theorem gfdiv_expAt {i j : Nat} (hi : i < 255) (hj : j < 255) : gfdiv (expAt i) (expAt j) = expAt ((i + 255 - j) % 255) := by
  have hne : ¬ expAt i = 0 := expAt_ne_zero i hi
  rw [gfdiv, if_neg hne, logAt_expAt i hi, logAt_expAt j hj]

theorem gfinv_expAt {i : Nat} (hi : i < 255) : gfinv (expAt i) = expAt ((255 - i) % 255) := by
  rw [gfinv, logAt_expAt i hi]

/-! ## The field laws -/

theorem gfmul_comm (a b : Byte) : gfmul a b = gfmul b a :=
  if_congr or_comm rfl (congrArg (fun n => expAt (n % 255)) (Nat.add_comm _ _))

theorem xtime_xor (a b : Byte) : xtime (a ^^^ b) = xtime a ^^^ xtime b := by
  have hreduce : ∀ p q : Bool,
      (if p ^^ q then 0x1D else 0 : Byte) = (if p then 0x1D else 0) ^^^ (if q then 0x1D else 0) := by decide
  rw [xtime, xtime, xtime, BitVec.shiftLeft_xor_distrib, BitVec.getLsbD_xor, hreduce]
  ac_rfl

theorem iterate_xtime_zero (n : Nat) : xtime^[n] 0 = 0 := Function.iterate_fixed rfl n

theorem iterate_xtime_xor (n : Nat) (a b : Byte) : xtime^[n] (a ^^^ b) = xtime^[n] a ^^^ xtime^[n] b := by
  induction n with
  | zero => rfl
  | succ n ih => rw [Function.iterate_succ_apply', Function.iterate_succ_apply', Function.iterate_succ_apply', ih, xtime_xor]

theorem iterate_xtime_expAt (n : Nat) {i : Nat} (hi : i < 255) : xtime^[n] (expAt i) = expAt ((n + i) % 255) := by
  induction n with
  | zero => rw [Nat.zero_add, Nat.mod_eq_of_lt hi]; rfl
  | succ n ih =>
    have hmod : ((n + i) % 255 + 1) % 255 = (n + 1 + i) % 255 := by omega
    rw [Function.iterate_succ_apply', ih, xtime_expAt _ (Nat.mod_lt _ (by decide)), hmod]

/-- Multiplying by a power of the generator multiplies by the generator as often. -/
theorem gfmul_eq_iterate_xtime {a : Byte} (ha : a ≠ 0) (b : Byte) : gfmul a b = xtime^[logAt a] b := by
  obtain rfl | hb := eq_or_ne b 0
  · rw [iterate_xtime_zero]; exact gfmul_zero_right a
  · obtain ⟨i, hi, rfl⟩ := exists_expAt_eq ha
    obtain ⟨j, hj, rfl⟩ := exists_expAt_eq hb
    rw [gfmul_expAt hi hj, logAt_expAt i hi, iterate_xtime_expAt i hj]

/-- Distributivity: multiplication by the generator is additive, and every nonzero factor is one of its powers. -/
theorem gfmul_xor (a b c : Byte) : gfmul a (b ^^^ c) = gfmul a b ^^^ gfmul a c := by
  obtain rfl | ha := eq_or_ne a 0
  · simp
  · simp only [gfmul_eq_iterate_xtime ha, iterate_xtime_xor]

theorem one_gfmul (b : Byte) : gfmul 1 b = b := gfmul_eq_iterate_xtime (by decide) b

theorem gfmul_one (a : Byte) : gfmul a 1 = a := (gfmul_comm a 1).trans (one_gfmul a)

theorem gfdiv_gfmul {a b : Byte} (ha : a ≠ 0) (hb : b ≠ 0) : gfdiv (gfmul a b) b = a := by
  obtain ⟨i, hi, rfl⟩ := exists_expAt_eq ha
  obtain ⟨j, hj, rfl⟩ := exists_expAt_eq hb
  have hexp : ((i + j) % 255 + 255 - j) % 255 = i := by omega
  rw [gfmul_expAt hi hj, gfdiv_expAt (Nat.mod_lt _ (by decide)) hj, hexp]

theorem gfmul_gfinv {a : Byte} (ha : a ≠ 0) : gfmul a (gfinv a) = 1 := by
  obtain ⟨i, hi, rfl⟩ := exists_expAt_eq ha
  have hexp : (i + (255 - i) % 255) % 255 = 0 := by omega
  rw [gfinv_expAt hi, gfmul_expAt hi (Nat.mod_lt _ (by decide)), hexp]; rfl

theorem gfinv_gfinv {a : Byte} (ha : a ≠ 0) : gfinv (gfinv a) = a := by
  obtain ⟨i, hi, rfl⟩ := exists_expAt_eq ha
  have hexp : (255 - (255 - i) % 255) % 255 = i := by omega
  rw [gfinv_expAt hi, gfinv_expAt (Nat.mod_lt _ (by decide)), hexp]

theorem gfdiv_one (a : Byte) : gfdiv a 1 = a := by
  obtain rfl | ha := eq_or_ne a 0
  · rfl
  · simpa only [gfmul_one] using gfdiv_gfmul ha (b := 1) (by decide)

theorem gfdiv_self {a : Byte} (ha : a ≠ 0) : gfdiv a a = 1 := by
  simpa only [one_gfmul] using gfdiv_gfmul (a := 1) (by decide) ha

/-- Settles O29, on powers of the generator. -/
theorem fieldLaws : Obligations.FieldLaws :=
  ⟨fun _ _ => gfdiv_gfmul, fun _ => gfmul_gfinv, gfmul_comm, gfmul_xor, gfmul_one, gfmul_zero_right, fun _ _ => gfmul_expAt⟩

/-! ## Words of the commands -/

/-- The word of a command whose operands are its immediate fields (30_encoding.md R101). -/
theorem toWord_immediates (op a b : Byte) :
    Fields.toWord op { i1 := a, i2 := b } = (zext b <<< 24) ||| (zext a <<< 16) ||| zext op := by
  simp [Fields.toWord]

/-- A word that decodes and has the OP of command j matches j's row (30_encoding.md R104, R105). -/
theorem and_mask_of_decode {w : Word} {i j : Instr} (hop : opcodeOf w = j.opcode) (h : decode w = .ok i) :
    w &&& j.format.mask = zext j.opcode := by
  obtain ⟨hrow, hwf⟩ := decode_eq_ok_iff.1 h
  obtain ⟨k, hk, hfmt⟩ := j.ofOpcode_opcode (.ofWord w)
  obtain rfl : k = i := Option.some.inj (hk.symm.trans (hop ▸ hrow))
  exact and_mask_eq_zext_iff.2 ⟨hop, hfmt ▸ hwf⟩

/-- OP is the low byte of a word (30_encoding.md R101). -/
theorem opcodeOf_of_lowByte {w : Word} {op : Byte} (h : w &&& 0xFF = zext op) : opcodeOf w = op := by
  have hmask : opcodeOf 0xFF = BitVec.allOnes 8 := rfl
  rw [← opcodeOf_zext op, ← h, opcodeOf_and, hmask, BitVec.and_allOnes]

/-- A word with the OP of command j and one of the bits m set raises ILLEGAL_CMD, if j's format fixes these bits at 0
(30_encoding.md R102, R105). -/
theorem raisesIllegal_of_reserved (j : Instr) {w m : Word} (hm : j.format.mask &&& m = m) (hrow : zext j.opcode &&& m = 0)
    (hop : w &&& 0xFF = zext j.opcode) (hne : w &&& m ≠ 0) : RaisesIllegal w := by
  refine raisesIllegal_of_not_decode fun ⟨i, hi⟩ => hne ?_
  calc w &&& m = w &&& j.format.mask &&& m := by rw [BitVec.and_assoc, hm]
    _ = 0 := by rw [and_mask_of_decode (opcodeOf_of_lowByte hop) hi, hrow]

/-! ## GF_MUL, GF_DIV, GF_INV -/

/-- A command that completes with the byte v in RESULT, zero-extended (10_state.md R27, 40_command.md R133). -/
theorem finish_writeResult (s : State) (v : Byte) :
    finish (s.writeResult v) = .next { s with result := 0#24 ++ v, done := true, pending := none } := by
  rw [← zext_byte]; rfl

/-- A command that ends with an error, at the step of its word (60_exceptions.md R311). -/
theorem trap_eq_faulted {s : State} {w : Word} (hw : s.pending = some w) (e : ErrCode) : trap e s = .next (faulted s w e.code) :=
  congrArg _ (State.raise_eq_faulted hw e)

theorem exec_gfMul (a b : Byte) (s : State) : exec (.gfMul a b) s = finish (s.writeResult (gfmul a b)) := rfl

theorem exec_gfDiv_zero (a : Byte) (s : State) : exec (.gfDiv a 0) s = trap .gfZeroDivisor s := rfl

theorem exec_gfDiv {b : Byte} (hb : b ≠ 0) (a : Byte) (s : State) : exec (.gfDiv a b) s = finish (s.writeResult (gfdiv a b)) :=
  if_neg hb

theorem exec_gfInv_zero (s : State) : exec (.gfInv 0) s = trap .gfZeroInverse s := rfl

theorem exec_gfInv {a : Byte} (ha : a ≠ 0) (s : State) : exec (.gfInv a) s = finish (s.writeResult (gfinv a)) := if_neg ha

/-- The difference of two logarithms modulo 255, in 0..254 (41_gf256.md R151). -/
theorem gfdiv_eq (a b : Byte) :
    gfdiv a b = if a = 0 then 0 else expAt (((logAt a : Int) - (logAt b : Int)) % 255).toNat := by
  have hb := logAt_lt b
  have hexp : (logAt a + 255 - logAt b) % 255 = (((logAt a : Int) - (logAt b : Int)) % 255).toNat := by omega
  rw [gfdiv, hexp]

/-- Settles O30: its words are its encodings, and RESULT is the product. -/
theorem gfMulWritesTheProduct : Obligations.GfMulWritesTheProduct :=
  ⟨fun a b => decode_eq_ok_iff_encode_eq.2 (toWord_immediates 0x10 a b),
    fun _ => raisesIllegal_of_reserved (.gfMul 0 0) rfl rfl,
    fun a b s => (exec_gfMul a b s).trans (finish_writeResult s _),
    one_gfmul, gfmul_comm, by decide⟩

/-- Settles O31: its words are its encodings, and RESULT is the quotient unless the divisor is 0. -/
theorem gfDivWritesTheQuotient : Obligations.GfDivWritesTheQuotient := by
  refine ⟨fun a b => decode_eq_ok_iff_encode_eq.2 (toWord_immediates 0x11 a b),
    fun _ => raisesIllegal_of_reserved (.gfDiv 0 0) rfl rfl,
    fun a s _ hw => (exec_gfDiv_zero a s).trans (trap_eq_faulted hw .gfZeroDivisor), fun a b s hb => ?_,
    gfdiv_one, fun _ => gfdiv_self, by decide⟩
  rw [exec_gfDiv hb, finish_writeResult, gfdiv_eq]

/-- Settles O32: its words are its encodings, and RESULT is the inverse unless the operand is 0. -/
theorem gfInvWritesTheInverse : Obligations.GfInvWritesTheInverse := by
  refine ⟨fun a => decode_eq_ok_iff_encode_eq.2 ?_, fun _ => raisesIllegal_of_reserved (.gfInv 0) rfl rfl,
    fun s _ hw => (exec_gfInv_zero s).trans (trap_eq_faulted hw .gfZeroInverse), fun a s ha => ?_,
    by decide, fun _ => gfinv_gfinv, by decide⟩
  · exact (toWord_immediates 0x12 a 0).trans (by simp)
  · rw [exec_gfInv ha, finish_writeResult, gfinv]

end Sys2Proof.Machine

/-! Polynomials over GF(2^8): the convolution as exclusive-or sums, the product and its length, division with remainder, what a
command with polynomial operands reads and writes, and the four polynomial commands. -/

namespace Sys2Proof.Machine

open Sys2Proof.Spec

/-! ## Exclusive-or sums -/

theorem xorSum_eq_zero {n : Nat} {f : Nat → Byte} (h : ∀ i, i < n → f i = 0) : xorSum n f = 0 := by
  induction n with
  | zero => rfl
  | succ n ih => rw [xorSum, ih fun i hi => h i (by omega), h n n.lt_succ_self, BitVec.xor_self]; rfl

theorem xorSum_xor (n : Nat) (f g : Nat → Byte) : xorSum n (fun i => f i ^^^ g i) = xorSum n f ^^^ xorSum n g := by
  induction n with
  | zero => exact BitVec.zero_xor.symm
  | succ n ih => rw [xorSum, xorSum, xorSum, ih]; ac_rfl

theorem xorSum_eq_single {n m : Nat} {f : Nat → Byte} (hm : m < n) (h : ∀ i, i < n → i ≠ m → f i = 0) : xorSum n f = f m := by
  induction n with
  | zero => exact absurd hm m.not_lt_zero
  | succ n ih =>
    obtain rfl | hne := eq_or_ne m n
    · rw [xorSum, xorSum_eq_zero fun i hi => h i (by omega) (by omega)]; exact BitVec.zero_xor
    · rw [xorSum, ih (by omega) fun i hi => h i (by omega), h n n.lt_succ_self hne.symm]; exact BitVec.xor_zero

/-- The first term of a sum, split off. -/
theorem xorSum_succ_first (n : Nat) (f : Nat → Byte) : xorSum (n + 1) f = f 0 ^^^ xorSum n fun i => f (i + 1) := by
  induction n with
  | zero => exact BitVec.xor_comm _ _
  | succ n ih => rw [xorSum, ih, xorSum, BitVec.xor_assoc]

/-! ## The convolution -/

theorem gfmul_xor_left (a b c : Byte) : gfmul (a ^^^ b) c = gfmul a c ^^^ gfmul b c := by
  rw [gfmul_comm, gfmul_xor, gfmul_comm c, gfmul_comm c]

theorem gfmul_gfdiv {a b : Byte} (hb : b ≠ 0) : gfmul (gfdiv a b) b = a := by
  obtain rfl | ha := eq_or_ne a 0
  · exact gfmul_zero_left b
  · obtain ⟨i, hi, rfl⟩ := exists_expAt_eq ha
    obtain ⟨j, hj, rfl⟩ := exists_expAt_eq hb
    have hexp : ((i + 255 - j) % 255 + j) % 255 = i := by omega
    rw [gfdiv_expAt hi hj, gfmul_expAt (Nat.mod_lt _ (by decide)) hj, hexp]

theorem gfmul_eq_zero {a b : Byte} (h : a = 0 ∨ b = 0) : gfmul a b = 0 := if_pos h

theorem conv_eq_zero {f g : Nat → Byte} {k : Nat} (h : ∀ i j, i + j = k → f i = 0 ∨ g j = 0) : conv f g k = 0 :=
  xorSum_eq_zero fun i hi => gfmul_eq_zero (h i (k - i) (by omega))

/-- A coefficient to which one pair of terms contributes. -/
theorem conv_eq_single {f g : Nat → Byte} (m n : Nat) (h : ∀ i j, i + j = m + n → i ≠ m → f i = 0 ∨ g j = 0) :
    conv f g (m + n) = gfmul (f m) (g n) := by
  have hsum := xorSum_eq_single (m := m) (f := fun i => gfmul (f i) (g (m + n - i))) (show m < m + n + 1 by omega)
    fun i hi hne => gfmul_eq_zero (h i _ (by omega) hne)
  rwa [Nat.add_sub_cancel_left] at hsum

theorem conv_xor_left (f f' g : Nat → Byte) (k : Nat) : conv (fun i => f i ^^^ f' i) g k = conv f g k ^^^ conv f' g k := by
  simp only [conv, gfmul_xor_left, xorSum_xor]

/-- Multiplying by the monomial c·x^m. -/
theorem conv_monomial (c : Byte) (m : Nat) (g : Nat → Byte) (k : Nat) :
    conv (fun i => if i = m then c else 0) g k = if k < m then 0 else gfmul c (g (k - m)) := by
  split
  · next h => exact conv_eq_zero fun i j hij => .inl (if_neg (by omega))
  · next h =>
    have hsingle := conv_eq_single (f := fun i => if i = m then c else 0) (g := g) m (k - m) fun i j _ hne => .inl (if_neg hne)
    rwa [if_pos rfl, Nat.add_sub_cancel' (not_lt.1 h)] at hsingle

namespace Poly

/-! ## Coefficients and the length -/

theorem lt_length_of_getD_ne_zero {p : Poly} {k : Nat} (h : p.getD k 0#8 ≠ 0) : k < p.length :=
  not_le.1 fun hle => h (getD_of_length_le hle)

/-- A normalized polynomial is one longer than its degree (00_scope.md R11). -/
theorem Normal.length_eq {p : Poly} (hp : Normal p) {d : Nat} (hd : p.getD d 0#8 ≠ 0) (h : ∀ k, d < k → p.getD k 0#8 = 0) :
    p.length = d + 1 := by
  have hlt := lt_length_of_getD_ne_zero hd
  have hle : ¬ d < p.length - 1 := fun hk => hp (List.length_pos_iff.1 (by omega)) (h _ hk)
  omega

theorem lead_eq_getD (p : Poly) : lead p = p.getD (p.length - 1) 0#8 := by
  rw [lead, List.getLastD_eq_getLast?, List.getLast?_eq_getElem?, List.getD_eq_getElem?_getD]; rfl

theorem Normal.lead_ne_zero {p : Poly} (hp : Normal p) (hne : p ≠ []) : lead p ≠ 0 := lead_eq_getD p ▸ hp hne

/-! ## The product -/

theorem getD_mulRaw (a b : Poly) (k : Nat) : (mulRaw a b).getD k 0#8 = conv (a.getD · 0#8) (b.getD · 0#8) k := by
  induction a generalizing k with
  | nil => exact (conv_eq_zero fun _ _ _ => .inl List.getD_nil).symm
  | cons x xs ih =>
    rw [getD_mulRaw_cons, conv, xorSum_succ_first]
    cases k with
    | zero => rfl
    | succ k =>
      simp only [List.getD_cons_zero, List.getD_cons_succ, Nat.succ_sub_succ, Nat.sub_zero, ih]
      rfl

theorem getD_mul (a b : Poly) (k : Nat) : (mul a b).getD k 0#8 = conv (a.getD · 0#8) (b.getD · 0#8) k := by
  rw [mul]
  split
  · next h =>
    refine (conv_eq_zero fun i j _ => h.imp ?_ ?_).symm <;> rintro rfl <;> exact List.getD_nil
  · exact getD_mulRaw a b k

theorem mul_ne_nil {a b : Poly} (h : mul a b ≠ []) : a ≠ [] ∧ b ≠ [] :=
  not_or.1 fun hz => h (if_pos hz)

theorem length_mul {a b : Poly} (ha : a ≠ []) (hb : b ≠ []) : (mul a b).length = a.length + b.length - 1 := by
  rw [mul, if_neg (not_or.2 ⟨ha, hb⟩), length_mulRaw a b ha hb]

/-- The leading coefficients of the factors multiply to that of the product, and GF(2^8) has no zero divisors. -/
theorem Normal.mul {a b : Poly} (ha : Normal a) (hb : Normal b) : Normal (mul a b) := by
  intro hne
  obtain ⟨hane, hbne⟩ := mul_ne_nil hne
  have hapos := List.length_pos_iff.2 hane
  have hbpos := List.length_pos_iff.2 hbne
  have htop : (Poly.mul a b).length - 1 = (a.length - 1) + (b.length - 1) := by rw [length_mul hane hbne]; omega
  have hlead := conv_eq_single (f := (a.getD · 0#8)) (g := (b.getD · 0#8)) (a.length - 1) (b.length - 1) fun i j hij hi => by
    obtain h | h : a.length ≤ i ∨ b.length ≤ j := by omega
    · exact .inl (getD_of_length_le h)
    · exact .inr (getD_of_length_le h)
  rw [htop, getD_mul, hlead]
  exact gfmul_ne_zero (ha hane) (hb hbne)

/-- The product needs more than 256 coefficients exactly when two nonzero terms multiply to one above x^255 (42_gfpoly.md R174). -/
theorem overflow_iff {a b : Poly} (ha : Normal a) (hb : Normal b) :
    (a ≠ [] ∧ b ≠ [] ∧ Config.polyMax < a.length + b.length - 1) ↔
      ∃ i j, a.getD i 0#8 ≠ 0 ∧ b.getD j 0#8 ≠ 0 ∧ 255 < i + j := by
  have hmax : Config.polyMax = 256 := rfl
  rw [hmax]
  constructor
  · rintro ⟨hane, hbne, hlen⟩
    exact ⟨_, _, ha hane, hb hbne, by omega⟩
  · rintro ⟨i, j, hi, hj, hij⟩
    have hilt := lt_length_of_getD_ne_zero hi
    have hjlt := lt_length_of_getD_ne_zero hj
    exact ⟨List.length_pos_iff.1 (by omega), List.length_pos_iff.1 (by omega), by omega⟩

theorem length_mul_le {a b : Poly} {n : Nat} (h : ¬ (a ≠ [] ∧ b ≠ [] ∧ n < a.length + b.length - 1)) : (mul a b).length ≤ n := by
  by_cases hne : mul a b = []
  · rw [hne]; exact n.zero_le
  · obtain ⟨ha, hb⟩ := mul_ne_nil hne
    rw [length_mul ha hb]
    exact not_lt.1 fun hlt => h ⟨ha, hb, hlt⟩

/-! ## Division with remainder -/

/-- The quotient's term of one pass of the remainder loop: q·x^k with q = gfdiv(lead R, lead D), k = len R - len D (42_gfpoly.md R175). -/
def quotientTerm (r d : Poly) (i : Nat) : Byte := if i = r.length - d.length then gfdiv (lead r) (lead d) else 0

theorem quotientTerm_self (r d : Poly) : quotientTerm r d (r.length - d.length) = gfdiv (lead r) (lead d) := if_pos rfl

theorem quotientTerm_of_ne {r d : Poly} {i : Nat} (h : i ≠ r.length - d.length) : quotientTerm r d i = 0 := if_neg h

/-- A pass adds the quotient's term times D. -/
theorem getD_remStep (r d : Poly) (k : Nat) :
    (remStep r d).getD k 0#8 = conv (quotientTerm r d) (d.getD · 0#8) k ^^^ r.getD k 0#8 := by
  have hterm : conv (quotientTerm r d) (d.getD · 0#8) k = _ := conv_monomial _ _ _ k
  rw [remStep, getD_add, getD_shift, getD_scale, hterm, BitVec.xor_comm]; rfl

theorem normal_remStep (r d : Poly) : Normal (remStep r d) := normal_normalize _

/-- A pass shortens R: it cancels the leading coefficient. -/
theorem length_remStep_lt {r d : Poly} (hd : Normal d) (hne : d ≠ []) (hle : d.length ≤ r.length) :
    (remStep r d).length < r.length := by
  have hpos := List.length_pos_iff.2 hne
  have hbound : (remStep r d).length ≤ r.length := by
    refine (length_add_le _ _).trans ?_
    rw [length_shift, length_scale]; omega
  have htop : (remStep r d).getD (r.length - 1) 0#8 = 0 := by
    have hidx : r.length - 1 = (r.length - d.length) + (d.length - 1) := by omega
    have hconv : conv (quotientTerm r d) (d.getD · 0#8) (r.length - 1) = lead r := by
      rw [hidx, conv_eq_single _ _ fun i _ _ hi => .inl (quotientTerm_of_ne hi), quotientTerm_self, ← lead_eq_getD,
        gfmul_gfdiv (hd.lead_ne_zero hne)]
    rw [getD_remStep, hconv, lead_eq_getD, BitVec.xor_self]; rfl
  refine hbound.lt_of_ne fun heq => ?_
  exact normal_remStep r d (List.length_pos_iff.1 (show 0 < (remStep r d).length by omega)) (heq ▸ htop)

theorem length_rem_lt {d : Poly} (hd : Normal d) (hne : d ≠ []) (n : Poly) : (rem n d).length < d.length :=
  length_remLoop (fun _ => length_remStep_lt hd hne) _ n (by omega)

theorem Normal.remLoop {r : Poly} (hr : Normal r) (fuel : Nat) (d : Poly) : Normal (remLoop fuel r d) := by
  induction fuel generalizing r with
  | zero => exact hr
  | succ fuel ih =>
    rw [Poly.remLoop]
    split
    · exact hr
    · exact ih (normal_remStep r d)

theorem Normal.rem {n : Poly} (hn : Normal n) (d : Poly) : Normal (rem n d) := hn.remLoop _ d

/-- `IsQuotient n d r q`: n = q·d + r, and q has no term above those of n. -/
def IsQuotient (n d r : Poly) (q : Nat → Byte) : Prop :=
  (∀ k, n.length ≤ k → q k = 0) ∧ ∀ k, n.getD k 0#8 = conv q (d.getD · 0#8) k ^^^ r.getD k 0#8

theorem isQuotient_zero (r d : Poly) : IsQuotient r d r fun _ => 0 := by
  refine ⟨fun _ _ => rfl, fun k => ?_⟩
  rw [conv_eq_zero fun _ _ _ => .inl rfl]; exact BitVec.zero_xor.symm

/-- The quotient grows by the term of a pass. -/
theorem IsQuotient.step {n d r : Poly} {q : Nat → Byte} (hd : Normal d) (hne : d ≠ []) (hle : d.length ≤ n.length)
    (h : IsQuotient (remStep n d) d r q) : IsQuotient n d r fun k => quotientTerm n d k ^^^ q k := by
  obtain ⟨hq, hr⟩ := h
  have hpos := List.length_pos_iff.2 hne
  have hlen := length_remStep_lt hd hne hle
  refine ⟨fun k hk => ?_, fun k => ?_⟩
  · have hterm := quotientTerm_of_ne (r := n) (d := d) (i := k) (by omega)
    simp only [hterm, hq k (by omega)]; rfl
  · calc n.getD k 0#8
        = conv (quotientTerm n d) (d.getD · 0#8) k ^^^ (remStep n d).getD k 0#8 := by
          rw [getD_remStep, ← BitVec.xor_assoc, BitVec.xor_self, BitVec.zero_xor]
      _ = conv (fun i => quotientTerm n d i ^^^ q i) (d.getD · 0#8) k ^^^ r.getD k 0#8 := by
          rw [hr, conv_xor_left, BitVec.xor_assoc]

theorem exists_isQuotient_remLoop {d : Poly} (hd : Normal d) (hne : d ≠ []) (fuel : Nat) (n : Poly) :
    ∃ q, IsQuotient n d (remLoop fuel n d) q := by
  induction fuel generalizing n with
  | zero => exact ⟨_, isQuotient_zero n d⟩
  | succ fuel ih =>
    rw [remLoop]
    split
    · exact ⟨_, isQuotient_zero n d⟩
    · next h =>
      obtain ⟨q, hq⟩ := ih (remStep n d)
      exact ⟨_, hq.step hd hne (not_lt.1 h)⟩

/-- Division with remainder (42_gfpoly.md R175). -/
theorem exists_isQuotient_rem {d : Poly} (hd : Normal d) (hne : d ≠ []) (n : Poly) : ∃ q, IsQuotient n d (rem n d) q :=
  exists_isQuotient_remLoop hd hne _ n

/-! ## Sums and monomials -/

theorem normal_add (a b : Poly) : Normal (add a b) := normal_normalize _

theorem getD_monomial (c : Byte) (k j : Nat) : (monomial c k).getD j 0#8 = if j = k then c else 0 := by
  rw [monomial]
  split
  · next h => rw [h, ite_self]; exact List.getD_nil
  · rw [getD_shift]
    obtain hlt | rfl | hgt := lt_trichotomy j k
    · rw [if_pos hlt, if_neg hlt.ne]; rfl
    · rw [if_neg (lt_irrefl j), if_pos rfl, Nat.sub_self]; rfl
    · rw [if_neg hgt.not_gt, if_neg hgt.ne', getD_of_length_le (by rw [List.length_singleton]; omega)]; rfl

theorem length_monomial_le (c : Byte) (k : Nat) : (monomial c k).length ≤ k + 1 := by
  rw [monomial]
  split
  · exact Nat.zero_le _
  · rw [length_shift]; rfl

theorem normal_monomial (c : Byte) (k : Nat) : Normal (monomial c k) := by
  by_cases hc : c = 0
  · rw [monomial, if_pos hc]; exact normal_nil
  · have hlen : (monomial c k).length - 1 = k := by rw [monomial, if_neg hc, length_shift]; rfl
    intro _
    rwa [hlen, getD_monomial, if_pos rfl]

end Poly

/-! ## Operands and results of the polynomial commands -/

/-- Coefficient k of a register is coefficient k of its value (10_state.md R42, 42_gfpoly.md R170). -/
theorem getD_value_eq_coeff (s : State) (p : PReg) (k : Nat) : s.polys[p].value.getD k 0#8 = coeff s p k := PolyReg.getD_value _ k

theorem coefficients_value (s : State) (p : PReg) : (s.polys[p].value.getD · 0#8) = coeff s p := funext (getD_value_eq_coeff s p)

/-- A command with two polynomial operands reads both before it goes on as c (42_gfpoly.md R170, R172). -/
def State.withOperands (s : State) (ra rb : PReg) (c : Poly → Poly → Outcome) : Outcome :=
  match s.readPoly ra, s.readPoly rb with
  | some a, some b => c a b
  | _, _ => trap .polyLength s

theorem State.withOperands_of_le {s : State} {ra rb : PReg} (ha : plen s ra ≤ 256) (hb : plen s rb ≤ 256) (c : Poly → Poly → Outcome) :
    s.withOperands ra rb c = c s.polys[ra].value s.polys[rb].value := by
  rw [withOperands, readPoly_eq_some ha, readPoly_eq_some hb]

/-- POLY_LENGTH, for either operand (42_gfpoly.md R170). -/
theorem State.withOperands_of_long {s : State} {w : Word} (hw : s.pending = some w) {ra rb : PReg}
    (h : 256 < plen s ra ∨ 256 < plen s rb) (c : Poly → Poly → Outcome) : s.withOperands ra rb c = .next (faulted s w 0x07) := by
  refine Eq.trans ?_ (trap_eq_faulted hw .polyLength)
  obtain ha | hb := h
  · rw [withOperands, readPoly_eq_none ha]
  · rw [withOperands, readPoly_eq_none hb]
    cases s.readPoly ra <;> rfl

/-- A register holds the normalized polynomial written to it (42_gfpoly.md R171). -/
theorem holds_ofPoly {p : Poly} {f : Nat → Byte} (hlen : p.length ≤ 256) (hp : p.Normal) (hf : ∀ k, p.getD k 0#8 = f k) :
    Holds (.ofPoly p) f := by
  refine ⟨fun k hk => (PolyReg.getElem_ofPoly p k hk).trans (hf k), ?_⟩
  rw [PolyReg.len_ofPoly hlen]
  exact ⟨hlen, fun k hk => hf k ▸ Poly.getD_of_length_le hk, fun hne => hf _ ▸ hp (List.ne_nil_of_length_pos (Nat.pos_of_ne_zero hne))⟩

/-- A command that completes with a polynomial result (42_gfpoly.md R171, 40_command.md R133). -/
theorem finish_writePoly (s : State) (d : PReg) (p : Poly) :
    finish (s.writePoly d p) = .next { s with polys := s.polys.set d (.ofPoly p), done := true, pending := none } := rfl

theorem exists_holds_of_finish {o : Outcome} {s : State} {d : PReg} {p : Poly} {f : Nat → Byte} (ho : o = finish (s.writePoly d p))
    (hlen : p.length ≤ 256) (hp : p.Normal) (hf : ∀ k, p.getD k 0#8 = f k) :
    ∃ r, o = .next { s with polys := s.polys.set d r, done := true, pending := none } ∧ Holds r f :=
  ⟨.ofPoly p, ho.trans (finish_writePoly s d p), holds_ofPoly hlen hp hf⟩

theorem zext_ofFin : ∀ p : PReg, zext (BitVec.ofFin p : BitVec 2) = regField p := by decide

/-- The word of a command with three polynomial registers (30_encoding.md R101). -/
theorem toWord_registers (op : Byte) (rd ra rb : PReg) : Fields.toWord op { rd := .ofFin rd, ra := .ofFin ra, rb := .ofFin rb } =
    regField rb <<< 12 ||| regField ra <<< 10 ||| regField rd <<< 8 ||| zext op := by
  simp [Fields.toWord, ← zext_ofFin]

/-- The word of P_MONO (30_encoding.md R101). -/
theorem toWord_register_immediates (op : Byte) (rd : PReg) (a b : Byte) : Fields.toWord op { rd := .ofFin rd, i1 := a, i2 := b } =
    zext b <<< 24 ||| zext a <<< 16 ||| regField rd <<< 8 ||| zext op := by
  simp [Fields.toWord, ← zext_ofFin]

/-! ## P_ADD -/

theorem exec_pAdd (rd ra rb : PReg) (s : State) :
    exec (.pAdd rd ra rb) s = s.withOperands ra rb fun a b => finish (s.writePoly rd (Poly.add a b)) := rfl

/-- Settles O33: the sum is read off the operands' values, whatever RD is. -/
theorem pAddWritesTheSum : Obligations.PAddWritesTheSum := by
  refine ⟨by decide, fun rd ra rb => decode_eq_ok_iff_encode_eq.2 (toWord_registers 0x20 rd ra rb),
    fun _ => raisesIllegal_of_reserved (.pAdd 0 0 0) rfl rfl, fun rd ra rb s w hw => ⟨fun hlong => ?_, fun ha hb => ?_⟩⟩
  · rw [exec_pAdd, State.withOperands_of_long hw hlong]
  · have hexec := (exec_pAdd rd ra rb s).trans (State.withOperands_of_le ha hb _)
    have hlen := (Poly.length_add_le s.polys[ra].value s.polys[rb].value).trans
      (max_le (PolyReg.length_value_le _) (PolyReg.length_value_le _))
    refine exists_holds_of_finish hexec hlen (Poly.normal_add _ _) fun k => ?_
    rw [Poly.getD_add, getD_value_eq_coeff, getD_value_eq_coeff]

/-! ## P_MUL -/

theorem exec_pMul (rd ra rb : PReg) (s : State) : exec (.pMul rd ra rb) s = s.withOperands ra rb fun a b =>
    if a ≠ [] ∧ b ≠ [] ∧ Config.polyMax < a.length + b.length - 1 then trap .polyOverflow s
    else finish (s.writePoly rd (Poly.mul a b)) := rfl

/-- The overflow check of P_MUL, on the registers' coefficients. -/
theorem overflow_value_iff (s : State) (ra rb : PReg) :
    (s.polys[ra].value ≠ [] ∧ s.polys[rb].value ≠ [] ∧ Config.polyMax < s.polys[ra].value.length + s.polys[rb].value.length - 1) ↔
      ∃ i j, coeff s ra i ≠ 0 ∧ coeff s rb j ≠ 0 ∧ 255 < i + j := by
  simpa only [getD_value_eq_coeff] using Poly.overflow_iff s.polys[ra].normal_value s.polys[rb].normal_value

/-- Settles O34: the lengths of normalized factors add up, so the overflow check is the one on degrees. -/
theorem pMulWritesTheProduct : Obligations.PMulWritesTheProduct := by
  refine ⟨by decide, fun rd ra rb => decode_eq_ok_iff_encode_eq.2 (toWord_registers 0x21 rd ra rb),
    fun _ => raisesIllegal_of_reserved (.pMul 0 0 0) rfl rfl,
    fun rd ra rb s w hw => ⟨fun hlong => ?_, fun ha hb hover => ?_, fun ha hb hfit => ?_⟩⟩
  · rw [exec_pMul, State.withOperands_of_long hw hlong]
  · rw [exec_pMul, State.withOperands_of_le ha hb, if_pos ((overflow_value_iff s ra rb).2 hover)]
    exact trap_eq_faulted hw .polyOverflow
  · have hno := mt (overflow_value_iff s ra rb).1 fun ⟨i, j, hi, hj, hij⟩ => not_le.2 hij (hfit i j hi hj)
    have hexec := (exec_pMul rd ra rb s).trans ((State.withOperands_of_le ha hb _).trans (if_neg hno))
    refine exists_holds_of_finish hexec (Poly.length_mul_le hno) (.mul (PolyReg.normal_value _) (PolyReg.normal_value _)) fun k => ?_
    rw [Poly.getD_mul, coefficients_value, coefficients_value]

/-! ## P_REM -/

theorem exec_pRem (rd ra rb : PReg) (s : State) : exec (.pRem rd ra rb) s = s.withOperands ra rb fun n d =>
    if d = [] then trap .polyZeroDivisor s else finish (s.writePoly rd (Poly.rem n d)) := rfl

/-- The zero check of P_REM, on the register's coefficients. -/
theorem value_eq_nil_iff (s : State) (p : PReg) : s.polys[p].value = [] ↔ ∀ k, coeff s p k = 0 :=
  (Poly.normal_eq_nil s.polys[p].normal_value).trans (forall_congr' fun k => Eq.congr (getD_value_eq_coeff s p k) rfl)

/-- The length of a register's value is one more than its degree. -/
theorem length_value_eq {s : State} {p : PReg} {d : Nat} (hd : coeff s p d ≠ 0) (h : ∀ k, d < k → coeff s p k = 0) :
    s.polys[p].value.length = d + 1 :=
  Poly.Normal.length_eq (PolyReg.normal_value _) ((getD_value_eq_coeff s p d).trans_ne hd)
    fun k hk => (getD_value_eq_coeff s p k).trans (h k hk)

/-- Settles O35: the loop's passes add up to a quotient, and its result is shorter than the divisor. -/
theorem pRemWritesTheRemainder : Obligations.PRemWritesTheRemainder := by
  refine ⟨fun rd ra rb => decode_eq_ok_iff_encode_eq.2 (toWord_registers 0x22 rd ra rb),
    fun _ => raisesIllegal_of_reserved (.pRem 0 0 0) rfl rfl, by decide,
    fun rd ra rb s w hw => ⟨fun hlong => ?_, fun ha hb hzero => ?_, fun ha hb d hd htop => ?_⟩⟩
  · rw [exec_pRem, State.withOperands_of_long hw hlong]
  · rw [exec_pRem, State.withOperands_of_le ha hb, if_pos ((value_eq_nil_iff s rb).2 hzero)]
    exact trap_eq_faulted hw .polyZeroDivisor
  · have hne : s.polys[rb].value ≠ [] := fun hnil => hd ((value_eq_nil_iff s rb).1 hnil d)
    have hexec := (exec_pRem rd ra rb s).trans ((State.withOperands_of_le ha hb _).trans (if_neg hne))
    have hlt := Poly.length_rem_lt s.polys[rb].normal_value hne s.polys[ra].value
    have hlen := length_value_eq hd htop
    have hmax := s.polys[rb].length_value_le
    obtain ⟨q, hq, hdiv⟩ := Poly.exists_isQuotient_rem s.polys[rb].normal_value hne s.polys[ra].value
    obtain ⟨r, hr, hholds⟩ := exists_holds_of_finish hexec (by omega) (s.polys[ra].normal_value.rem _) fun _ => rfl
    refine ⟨r, _, q, hr, hholds, fun k hk => Poly.getD_of_length_le (by omega),
      fun k hk => hq k (s.polys[ra].length_value_le.trans hk), fun k => ?_⟩
    rw [← getD_value_eq_coeff, ← coefficients_value, hdiv]

/-! ## P_MONO -/

theorem exec_pMono (rd : PReg) (c k : Byte) (s : State) :
    exec (.pMono rd c k) s = finish (s.writePoly rd (Poly.monomial c k.toNat)) := rfl

/-- Settles O36: k is at most 255, so the monomial fits. -/
theorem pMonoWritesTheMonomial : Obligations.PMonoWritesTheMonomial := by
  refine ⟨fun rd c k => decode_eq_ok_iff_encode_eq.2 (toWord_register_immediates 0x23 rd c k),
    fun _ => raisesIllegal_of_reserved (.pMono 0 0 0) rfl rfl, fun rd c k s => ?_⟩
  exact exists_holds_of_finish (exec_pMono rd c k s) ((Poly.length_monomial_le c _).trans k.isLt) (Poly.normal_monomial c _)
    (Poly.getD_monomial c _)

end Sys2Proof.Machine

/-! Reed–Solomon: the generator polynomial, the remainder that P_RSENC writes with its quotient, the value of a polynomial at a
point, and the roots of a codeword. -/

namespace Sys2Proof.Machine

open Sys2Proof.Spec

/-! ## The generator polynomial -/

/-- Multiplying by x + c (43_reed_solomon.md R190). -/
theorem conv_linear (f : Nat → Byte) (c : Byte) (k : Nat) :
    conv f ([c, 1].getD · 0#8) k = gfmul (f k) c ^^^ if k = 0 then 0 else f (k - 1) := by
  cases k with
  | zero => exact BitVec.zero_xor.trans BitVec.xor_zero.symm
  | succ k =>
    have hlow : xorSum k (fun i => gfmul (f i) ([c, 1].getD (k + 1 - i) 0#8)) = 0#8 := xorSum_eq_zero fun i hi =>
      gfmul_eq_zero (.inr (Poly.getD_of_length_le (show 2 ≤ k + 1 - i by omega)))
    have hidx : k + 1 - k = 1 := by omega
    rw [conv, xorSum, xorSum, hlow, hidx, Nat.sub_self, if_neg k.succ_ne_zero, Nat.add_sub_cancel, List.getD_cons_succ,
      List.getD_cons_zero, List.getD_cons_zero, gfmul_one, BitVec.zero_xor, BitVec.xor_comm]

theorem length_genPoly (n : Nat) : (genPoly n).length = n + 1 := by
  induction n with
  | zero => rfl
  | succ n ih => rw [genPoly, Poly.length_mul (List.ne_nil_of_length_eq_add_one ih) (List.cons_ne_nil _ _), ih]; rfl

theorem genPoly_ne_nil (n : Nat) : genPoly n ≠ [] := List.ne_nil_of_length_eq_add_one (length_genPoly n)

theorem getD_genPoly (n k : Nat) : (genPoly n).getD k 0#8 = genCoeff n k := by
  induction n generalizing k with
  | zero => cases k <;> rfl
  | succ n ih => simp only [genPoly, Poly.getD_mul, conv_linear, ih, genCoeff]

theorem coefficients_genPoly (n : Nat) : ((genPoly n).getD · 0#8) = genCoeff n := funext (getD_genPoly n)

theorem genCoeff_of_lt {n k : Nat} (h : n < k) : genCoeff n k = 0 := by
  rw [← getD_genPoly]
  exact Poly.getD_of_length_le (by rw [length_genPoly]; exact h)

/-- g_n is monic of degree n. -/
theorem genCoeff_self (n : Nat) : genCoeff n n = 1 := by
  induction n with
  | zero => rfl
  | succ n ih =>
    rw [genCoeff, genCoeff_of_lt n.lt_succ_self, if_neg n.succ_ne_zero, Nat.add_sub_cancel, ih, gfmul_eq_zero (.inl rfl)]; rfl

theorem normal_genPoly (n : Nat) : (genPoly n).Normal := by
  intro _
  rw [length_genPoly, Nat.add_sub_cancel, getD_genPoly, genCoeff_self]
  decide

/-! ## P_GEN -/

theorem exec_pGen (rd : PReg) (n : Byte) (s : State) : exec (.pGen rd n) s = finish (s.writePoly rd (genPoly n.toNat)) := rfl

/-- Settles O37: the product's coefficients follow the recurrence, and n is at most 255, so that n + 1 of them fit. -/
theorem pGenWritesTheGenerator : Obligations.PGenWritesTheGenerator := by
  refine ⟨fun rd n => decode_eq_ok_iff_encode_eq.2 ?_, fun _ => raisesIllegal_of_reserved (.pGen 0 0) rfl rfl, by decide,
    fun rd n s => ?_⟩
  · exact (toWord_register_immediates 0x28 rd n 0).trans (by simp)
  · have hlen : (genPoly n.toNat).length ≤ 256 := (length_genPoly _).trans_le n.isLt
    exact ⟨.ofPoly (genPoly n.toNat), (exec_pGen rd n s).trans (finish_writePoly s rd _),
      holds_ofPoly hlen (normal_genPoly _) (getD_genPoly _), (PolyReg.len_ofPoly hlen).trans (length_genPoly _), genCoeff_self _⟩

/-! ## The quotient's degree -/

/-- The degrees of quotient and divisor add up to the dividend's: where the product with the divisor's leading term would pass the
dividend, the quotient is 0. -/
theorem Poly.IsQuotient.eq_zero {n d r : Poly} {q : Nat → Byte} (hd : d.Normal) (hne : d ≠ []) (hr : r.length < d.length)
    (h : IsQuotient n d r q) {k : Nat} (hk : n.length < k + d.length) : q k = 0 := by
  obtain ⟨hq, hdiv⟩ := h
  induction hj : n.length - k using Nat.strong_induction_on generalizing k with
  | _ j ih =>
    by_cases hle : n.length ≤ k
    · exact hq k hle
    · have hpos := List.length_pos_iff.2 hne
      have habove : ∀ i, k < i → q i = 0 := fun i hi => ih _ (by omega) (by omega) rfl
      have hsingle : conv q (d.getD · 0#8) (k + (d.length - 1)) = gfmul (q k) (d.getD (d.length - 1) 0#8) :=
        conv_eq_single k (d.length - 1) fun i m him hik => by
          obtain hlt | hgt := hik.lt_or_gt
          · exact .inr (getD_of_length_le (by omega))
          · exact .inl (habove i hgt)
      have htop := hdiv (k + (d.length - 1))
      rw [getD_of_length_le (p := n) (by omega), getD_of_length_le (p := r) (by omega), hsingle, BitVec.xor_zero] at htop
      exact by_contra fun hqk => gfmul_ne_zero hqk (hd hne) htop.symm

/-! ## P_RSENC -/

theorem normal_rsRemainder (a : Poly) (n : Nat) : (rsRemainder a n).Normal := (Poly.normal_normalize _).rem _

theorem length_rsRemainder_lt (a : Poly) (n : Nat) : (rsRemainder a n).length < (genPoly n).length :=
  Poly.length_rem_lt (normal_genPoly n) (genPoly_ne_nil n) _

theorem length_rsRemainder_le (a : Poly) (n : Nat) : (rsRemainder a n).length ≤ n :=
  Nat.le_of_lt_succ ((length_rsRemainder_lt a n).trans_eq (length_genPoly n))

/-- A·x^n = Q·g_n + R, and Q has no more coefficients than A (43_reed_solomon.md R193). -/
theorem exists_quotient_rsRemainder (a : Poly) (n : Nat) : ∃ q : Nat → Byte, (∀ k, a.length ≤ k → q k = 0) ∧
    ∀ k, (if k < n then 0 else a.getD (k - n) 0#8) = conv q (genCoeff n) k ^^^ (rsRemainder a n).getD k 0#8 := by
  obtain ⟨q, hq⟩ := Poly.exists_isQuotient_rem (normal_genPoly n) (genPoly_ne_nil n) (Poly.normalize (Poly.shift n a))
  refine ⟨q, fun k hk => ?_, fun k => ?_⟩
  · have hdividend := (Poly.length_normalize_le (Poly.shift n a)).trans_eq (Poly.length_shift n a)
    exact hq.eq_zero (normal_genPoly n) (genPoly_ne_nil n) (length_rsRemainder_lt a n) (by rw [length_genPoly]; omega)
  · obtain ⟨-, hdiv⟩ := hq
    have hdiv := hdiv k
    rwa [Poly.getD_normalize, Poly.getD_shift, coefficients_genPoly] at hdiv

theorem exec_pRsenc_of_le {s : State} {ra : PReg} (ha : plen s ra ≤ 256) (rd : PReg) (n : Byte) :
    exec (.pRsenc rd ra n) s = finish (s.writePoly rd (rsRemainder s.polys[ra].value n.toNat)) := by
  rw [exec, execPRsenc, State.readPoly_eq_some ha]

theorem exec_pRsenc_of_long {s : State} {ra : PReg} (ha : 256 < plen s ra) (rd : PReg) (n : Byte) :
    exec (.pRsenc rd ra n) s = trap .polyLength s := by
  rw [exec, execPRsenc, State.readPoly_eq_none ha]

/-- The word of P_RSENC (30_encoding.md R101). -/
theorem toWord_registers_immediate (op : Byte) (rd ra : PReg) (a : Byte) : Fields.toWord op { rd := .ofFin rd, ra := .ofFin ra, i1 := a } =
    zext a <<< 16 ||| regField ra <<< 10 ||| regField rd <<< 8 ||| zext op := by
  simp [Fields.toWord, ← zext_ofFin]

/-- Settles O38: division by g_n, whose remainder has at most n terms and whose quotient has at most A's. -/
theorem pRsencWritesTheRemainder : Obligations.PRsencWritesTheRemainder := by
  refine ⟨fun rd ra n => decode_eq_ok_iff_encode_eq.2 (toWord_registers_immediate 0x29 rd ra n),
    fun _ => raisesIllegal_of_reserved (.pRsenc 0 0 0) rfl rfl, fun rd ra n s w hw => ⟨fun hlong => ?_, fun ha => ?_⟩⟩
  · exact (exec_pRsenc_of_long hlong rd n).trans (trap_eq_faulted hw .polyLength)
  · have hlen := length_rsRemainder_le s.polys[ra].value n.toNat
    obtain ⟨r, hr, hholds⟩ := exists_holds_of_finish (exec_pRsenc_of_le ha rd n) (hlen.trans n.isLt.le)
      (normal_rsRemainder _ _) fun _ => rfl
    obtain ⟨q, hq, hdiv⟩ := exists_quotient_rsRemainder s.polys[ra].value n.toNat
    refine ⟨r, _, q, hr, hholds, fun k hk => Poly.getD_of_length_le (hlen.trans hk),
      fun k hk => hq k ((PolyReg.length_value_le _).trans hk), fun k => ?_⟩
    rw [← getD_value_eq_coeff, hdiv]

/-! ## The value of a polynomial at a point -/

theorem gfmul_assoc (a b c : Byte) : gfmul (gfmul a b) c = gfmul a (gfmul b c) := by
  obtain rfl | ha := eq_or_ne a 0
  · simp
  obtain rfl | hb := eq_or_ne b 0
  · simp
  obtain rfl | hc := eq_or_ne c 0
  · simp
  obtain ⟨i, hi, rfl⟩ := exists_expAt_eq ha
  obtain ⟨j, hj, rfl⟩ := exists_expAt_eq hb
  obtain ⟨k, hk, rfl⟩ := exists_expAt_eq hc
  have hmod : ∀ m, m % 255 < 255 := fun m => Nat.mod_lt m (by decide)
  rw [gfmul_expAt hi hj, gfmul_expAt hj hk, gfmul_expAt (hmod _) hk, gfmul_expAt hi (hmod _), Nat.mod_add_mod, Nat.add_mod_mod,
    Nat.add_assoc]

namespace Poly

/-- The value of a polynomial at x: its coefficients as bytes, highest degree first. -/
def eval (p : Poly) (x : Byte) : Byte := evalBytes p.reverse x

@[simp] theorem eval_nil (x : Byte) : eval [] x = 0 := rfl

@[simp] theorem eval_cons (c : Byte) (p : Poly) (x : Byte) : eval (c :: p) x = gfmul (eval p x) x ^^^ c := by
  simp [eval, evalBytes]

/-- A polynomial whose coefficients are all 0 is 0 everywhere. -/
theorem eval_eq_zero {p : Poly} (h : ∀ k, p.getD k 0#8 = 0#8) (x : Byte) : eval p x = 0 := by
  induction p with
  | nil => rfl
  | cons c p ih =>
    have hc : c = 0 := h 0
    rw [eval_cons, ih fun k => h (k + 1), gfmul_eq_zero (.inl rfl), hc]; rfl

/-- The value depends on the coefficients alone, not on zero leading terms. -/
theorem eval_congr {p r : Poly} (h : ∀ k, p.getD k 0#8 = r.getD k 0#8) (x : Byte) : eval p x = eval r x := by
  induction p generalizing r with
  | nil => exact (eval_eq_zero (fun k => (h k).symm.trans List.getD_nil) x).symm
  | cons c p ih =>
    cases r with
    | nil => exact eval_eq_zero (fun k => (h k).trans List.getD_nil) x
    | cons c' r =>
      have hc : c = c' := h 0
      rw [eval_cons, eval_cons, ih fun k => h (k + 1), hc]

theorem eval_addRaw (p r : Poly) (x : Byte) : eval (addRaw p r) x = eval p x ^^^ eval r x := by
  induction p generalizing r with
  | nil => exact BitVec.zero_xor.symm
  | cons a p ih =>
    cases r with
    | nil => exact BitVec.xor_zero.symm
    | cons b r =>
      rw [addRaw, eval_cons, eval_cons, eval_cons, ih, gfmul_xor_left]; ac_rfl

theorem eval_add (p r : Poly) (x : Byte) : eval (add p r) x = eval p x ^^^ eval r x :=
  (eval_congr (getD_normalize _) x).trans (eval_addRaw p r x)

theorem eval_scale (c : Byte) (p : Poly) (x : Byte) : eval (scale c p) x = gfmul c (eval p x) := by
  induction p with
  | nil => exact (gfmul_zero_right c).symm
  | cons a p ih =>
    have hcons : scale c (a :: p) = gfmul c a :: scale c p := rfl
    rw [hcons, eval_cons, ih, eval_cons, gfmul_xor, gfmul_assoc]

theorem eval_mulRaw (p r : Poly) (x : Byte) : eval (mulRaw p r) x = gfmul (eval p x) (eval r x) := by
  induction p with
  | nil => exact (gfmul_zero_left _).symm
  | cons a p ih =>
    have hx : gfmul (gfmul (eval p x) (eval r x)) x = gfmul (gfmul (eval p x) x) (eval r x) := by
      rw [gfmul_assoc, gfmul_comm (eval r x), gfmul_assoc]
    calc eval (mulRaw (a :: p) r) x
        = gfmul a (eval r x) ^^^ (gfmul (eval (mulRaw p r) x) x ^^^ 0) := by rw [mulRaw, eval_addRaw, eval_scale, eval_cons]
      _ = gfmul (eval (a :: p) x) (eval r x) := by
        rw [ih, hx, eval_cons, gfmul_xor_left, BitVec.xor_comm]; exact congrArg (· ^^^ _) BitVec.xor_zero

theorem eval_mul (p r : Poly) (x : Byte) : eval (mul p r) x = gfmul (eval p x) (eval r x) :=
  (eval_congr (fun k => (getD_mul p r k).trans (getD_mulRaw p r k).symm) x).trans (eval_mulRaw p r x)

/-! ## Roots -/

/-- Multiplying by x^k keeps a root. -/
theorem eval_shift_of_root {p : Poly} {x : Byte} (h : eval p x = 0) (k : Nat) : eval (shift k p) x = 0 := by
  induction k with
  | zero => exact h
  | succ k ih =>
    have hcons : shift (k + 1) p = 0 :: shift k p := rfl
    rw [hcons, eval_cons, ih, gfmul_eq_zero (.inl rfl)]; rfl

/-- At a root of D, a pass of the remainder loop keeps the value. -/
theorem eval_remStep_of_root {d : Poly} {x : Byte} (h : eval d x = 0) (r : Poly) : eval (remStep r d) x = eval r x := by
  have hscale : ∀ c, eval (scale c d) x = 0 := fun c => by rw [eval_scale, h]; exact gfmul_zero_right c
  rw [remStep, eval_add, eval_shift_of_root (hscale _)]; exact BitVec.xor_zero

theorem eval_remLoop_of_root {d : Poly} {x : Byte} (h : eval d x = 0) (fuel : Nat) (r : Poly) :
    eval (remLoop fuel r d) x = eval r x := by
  induction fuel generalizing r with
  | zero => rfl
  | succ fuel ih =>
    rw [remLoop]
    split
    · rfl
    · rw [ih, eval_remStep_of_root h]

/-- At a root of the divisor, dividend and remainder have the same value. -/
theorem eval_rem_of_root {d : Poly} {x : Byte} (h : eval d x = 0) (n : Poly) : eval (rem n d) x = eval n x :=
  eval_remLoop_of_root h _ n

end Poly

/-- The roots of g_n are α^0 to α^(n-1) (43_reed_solomon.md R190). -/
theorem eval_genPoly {n i : Nat} (h : i < n) : (genPoly n).eval (expAt i) = 0 := by
  induction n with
  | zero => exact absurd h i.not_lt_zero
  | succ n ih =>
    rw [genPoly, Poly.eval_mul]
    obtain hlt | rfl := Nat.lt_succ_iff_lt_or_eq.1 h
    · exact gfmul_eq_zero (.inl (ih hlt))
    · have hroot : Poly.eval [expAt i, 1] (expAt i) = 0 := by
        rw [Poly.eval_cons, Poly.eval_cons, Poly.eval_nil, gfmul_eq_zero (.inl rfl)]
        exact (congrArg (· ^^^ expAt i) (one_gfmul (expAt i))).trans BitVec.xor_self
      exact gfmul_eq_zero (.inr hroot)

/-! ## Codewords -/

/-- The ECC bytes from the last to the first are the remainder's coefficients from x^0 upward (43_reed_solomon.md R192). -/
theorem reverse_rsEcc (d : List Byte) (n : Nat) :
    (rsEcc d n).reverse = (List.range n).map fun k => (rsRemainder (Poly.normalize d.reverse) n).getD k 0#8 := by
  refine List.ext_getElem (by simp) fun k hk _ => ?_
  have hk : k < n := by simpa using hk
  have hidx : n - 1 - (n - 1 - k) = k := by omega
  simp [rsEcc, hidx]

/-- A codeword is D·x^n + R, its first byte the coefficient of highest degree (43_reed_solomon.md R192, R194). -/
theorem getD_reverse_codeword (d : List Byte) (n k : Nat) : (d ++ rsEcc d n).reverse.getD k 0#8 =
    (Poly.add (Poly.shift n d.reverse) (rsRemainder (Poly.normalize d.reverse) n)).getD k 0#8 := by
  have hlen := length_rsRemainder_le (Poly.normalize d.reverse) n
  rw [List.reverse_append, reverse_rsEcc, Poly.getD_add, Poly.getD_shift]
  split
  · next h =>
    rw [List.getD_append _ _ _ _ (by simpa using h)]; simp [h]
  · next h =>
    rw [List.getD_append_right _ _ _ _ (by simpa using h), Poly.getD_of_length_le (hlen.trans (not_lt.1 h))]; simp

/-- At a root of g_n the remainder and D·x^n have the same value. -/
theorem eval_rsRemainder {n i : Nat} (h : i < n) (p : Poly) :
    (rsRemainder (Poly.normalize p) n).eval (expAt i) = (Poly.shift n p).eval (expAt i) :=
  (Poly.eval_rem_of_root (eval_genPoly h) _).trans (Poly.eval_congr (fun k => by
    rw [Poly.getD_normalize, Poly.getD_shift, Poly.getD_normalize, Poly.getD_shift]) _)

/-- Settles O39: the codeword polynomial is D·x^n + R, and its two terms cancel at every root of g_n. -/
theorem codewordsHaveZeroSyndromes : Obligations.CodewordsHaveZeroSyndromes := by
  refine fun d n i _ hi => ⟨length_rsEcc d n, ?_⟩
  calc evalBytes (d ++ rsEcc d n) (expAt i)
      = Poly.eval (d ++ rsEcc d n).reverse (expAt i) := by rw [Poly.eval, List.reverse_reverse]
    _ = (Poly.shift n d.reverse).eval (expAt i) ^^^ (rsRemainder (Poly.normalize d.reverse) n).eval (expAt i) :=
      (Poly.eval_congr (getD_reverse_codeword d n) _).trans (Poly.eval_add _ _ _)
    _ = 0 := by rw [eval_rsRemainder hi]; exact BitVec.xor_self

end Sys2Proof.Machine

/-! The bit vector: the words without operands, and what BV_CLEAR, BV_APPEND, BV_AT and BV_BYTEAT do with the bits below BV_LEN. -/

namespace Sys2Proof.Machine

open Sys2Proof.Spec

/-! ## Commands with one word -/

/-- A command whose format has no field has one word, and every other word with its OP raises ILLEGAL_CMD
(30_encoding.md R102, R105). -/
theorem raisesIllegal_of_fixedWord (j : Instr) {w : Word} (hmask : j.format.mask = BitVec.allOnes 32) (hop : w &&& 0xFF = zext j.opcode)
    (hne : w ≠ zext j.opcode) : RaisesIllegal w := by
  refine raisesIllegal_of_not_decode fun ⟨i, hi⟩ => hne ?_
  have hrow := and_mask_of_decode (opcodeOf_of_lowByte hop) hi
  rwa [hmask, BitVec.and_allOnes] at hrow

/-! ## Masked bytes and window words -/

/-- Past the length every masked byte is 0 (10_state.md R43). -/
theorem BitRam.byteAt_of_le {r : BitRam} {k : Nat} (h : r.len.toNat ≤ k) : r.byteAt k = 0 :=
  BitVec.eq_of_getLsbD_eq fun j hj => by rw [r.getLsbD_byteAt k j hj, bitm_of_le (by omega), BitVec.ofNat_eq_ofNat, BitVec.getLsbD_zero]

/-- Past the length every window word is 0 (20_memory.md R77, R80). -/
theorem BitRam.window_of_le {r : BitRam} {w : Nat} (h : r.len.toNat ≤ 32 * w) : r.window w = 0 :=
  BitVec.eq_of_getLsbD_eq fun j hj => by rw [r.getLsbD_window w j hj, bitm_of_le (by omega), BitVec.ofNat_eq_ofNat, BitVec.getLsbD_zero]

/-- Bit 7 - k of the masked byte at i is bit i + k, 0 at and above the length (44_bitvector.md R214). -/
theorem BitRam.getLsbD_byteAt_rev (r : BitRam) (i : Nat) {k : Nat} (hk : k < 8) :
    (r.byteAt i).getLsbD (7 - k) = (decide (i + k < r.len.toNat) && r.bit (i + k)) := by
  have hidx : 7 - (7 - k) = k := by omega
  rw [r.getLsbD_byteAt i (7 - k) (by omega), hidx, r.bitm_eq]

/-- Byte j of the packed bits is lane j mod 4 of window word j div 4 (20_memory.md R73). -/
theorem BitRam.extractLsb'_window (r : BitRam) (j : Nat) : (r.window (j / 4)).extractLsb' (8 * (j % 4)) 8 = r.byteAt (8 * j) :=
  BitVec.eq_of_getLsbD_eq fun i hi => by
    have hidx : 32 * (j / 4) + 8 * ((8 * (j % 4) + i) / 8) + (7 - (8 * (j % 4) + i) % 8) = 8 * j + (7 - i) := by omega
    rw [BitVec.getLsbD_extractLsb', decide_eq_true hi, Bool.true_and, r.getLsbD_window _ _ (by omega), hidx, r.getLsbD_byteAt _ _ hi]

/-! ## BV_CLEAR -/

/-- Settles O40: every read path masks the bits at and above the length, which is 0. -/
theorem bvClearEmptiesTheVector : Obligations.BvClearEmptiesTheVector :=
  ⟨decode_eq_ok_iff_encode_eq.2 (by decide), fun _ => raisesIllegal_of_fixedWord .bvClear rfl, fun _ => rfl,
    fun _ _ => ⟨BitRam.window_of_le (Nat.zero_le _), BitRam.byteAt_of_le (Nat.zero_le _)⟩⟩

/-! ## BV_APPEND -/

theorem exec_bvAppend_of_wide {n : Byte} (h : 32 < n.toNat) (s : State) : exec (.bvAppend n) s = trap .badOperand s := if_pos h

theorem exec_bvAppend_of_full {n : Byte} {s : State} (hn : n.toNat ≤ 32) (h : 32768 < s.bv.len.toNat + n.toNat) :
    exec (.bvAppend n) s = trap .bvOverflow s :=
  (if_neg hn.not_gt).trans (if_pos h)

theorem exec_bvAppend_of_fits {n : Byte} {s : State} (hn : n.toNat ≤ 32) (h : s.bv.len.toNat + n.toNat ≤ 32768) :
    exec (.bvAppend n) s = finish { s with bv := s.bv.storeAt s.bv.len.toNat (appendBits s.arg0 n.toNat) } :=
  (if_neg hn.not_gt).trans (if_neg h.not_gt)

@[simp] theorem length_appendBits (arg : Word) (n : Nat) : (appendBits arg n).length = n := by simp [appendBits]

theorem getElem?_appendBits (arg : Word) {n k : Nat} (hk : k < n) : (appendBits arg n)[k]? = some (arg.getLsbD (n - 1 - k)) := by
  simp [appendBits, hk]

/-- Stored bits are read back from their places (10_state.md R43). -/
theorem BitRam.bit_storeAt_add {r : BitRam} (h : Memory.wf r.ram) (k : Nat) {bs : List Bool} {i : Nat} {b : Bool} (hb : bs[i]? = some b) :
    (r.storeAt k bs).bit (k + i) = b := by
  rw [bit_storeAt h, if_pos (Nat.le_add_right k i), Nat.add_sub_cancel_left, hb, Option.getD_some]

/-- Storing bits changes no bit before the first and after the last of them. -/
theorem BitRam.bit_storeAt_outside {r : BitRam} (h : Memory.wf r.ram) {k : Nat} {bs : List Bool} {j : Nat}
    (hj : j < k ∨ k + bs.length ≤ j) : (r.storeAt k bs).bit j = r.bit j := by
  rw [bit_storeAt h]
  split
  · rw [List.getElem?_eq_none (by omega), Option.getD_none]
  · rfl

/-- Settles O41: the appended bits are stored from BV_LEN on, and storing touches no other bit and no byte outside them. -/
theorem bvAppendAppendsTheLowBits : Obligations.BvAppendAppendsTheLowBits := by
  refine ⟨fun n => decode_eq_ok_iff_encode_eq.2 ?_, fun _ => raisesIllegal_of_reserved (.bvAppend 0) rfl rfl,
    fun n s w hw => ⟨fun hwide => ?_, fun hn hfull => ?_, fun hn hfits hwf => ?_⟩⟩
  · exact (toWord_immediates 0x31 n 0).trans (by simp)
  · exact (exec_bvAppend_of_wide hwide s).trans (trap_eq_faulted hw .badOperand)
  · exact (exec_bvAppend_of_full hn hfull).trans (trap_eq_faulted hw .bvOverflow)
  · refine ⟨_, exec_bvAppend_of_fits hn hfits, ?_, fun k hk => ?_, fun j hj => ?_, fun a ha => ?_⟩
    · rw [BitRam.storeAt_len _ _ _ (by rw [length_appendBits]; omega), length_appendBits]
    · exact BitRam.bit_storeAt_add hwf _ (getElem?_appendBits s.arg0 hk)
    · exact BitRam.bit_storeAt_outside hwf (by rwa [length_appendBits])
    · exact read_setRamBits_outside hwf _ _ (by rwa [length_appendBits])

/-! ## BV_AT and BV_BYTEAT -/

theorem exec_bvAt_of_le {s : State} (h : s.bv.len.toNat ≤ s.arg0.toNat) : exec .bvAt s = trap .bvRange s := if_pos h

theorem exec_bvAt_of_lt {s : State} (h : s.arg0.toNat < s.bv.len.toNat) :
    exec .bvAt s = finish (s.writeResult (ofBit (s.bv.bit s.arg0.toNat))) := if_neg h.not_ge

theorem exec_bvByteat_of_le {s : State} (h : s.bv.len.toNat ≤ s.arg0.toNat) : exec .bvByteat s = trap .bvRange s := if_pos h

theorem exec_bvByteat_of_lt {s : State} (h : s.arg0.toNat < s.bv.len.toNat) :
    exec .bvByteat s = finish (s.writeResult (s.bv.byteAt s.arg0.toNat)) := if_neg h.not_ge

/-- A command that completes with the bit b in RESULT, zero-extended (10_state.md R27, 40_command.md R133). -/
theorem finish_writeResult_ofBit (s : State) (b : Bool) :
    finish (s.writeResult (ofBit b)) = .next { s with result := 0#31 ++ BitVec.ofBool b, done := true, pending := none } := by
  have hbit : zext (ofBit b) = 0#31 ++ BitVec.ofBool b := by cases b <;> rfl
  rw [← hbit]; rfl

/-- Settles O42: RESULT is the stored bit, zero-extended. -/
theorem bvAtReadsOneBit : Obligations.BvAtReadsOneBit :=
  ⟨decode_eq_ok_iff_encode_eq.2 (by decide), fun _ => raisesIllegal_of_fixedWord .bvAt rfl, fun s _ hw =>
    ⟨fun hle => (exec_bvAt_of_le hle).trans (trap_eq_faulted hw .bvRange),
      fun hlt => (exec_bvAt_of_lt hlt).trans (finish_writeResult_ofBit s _)⟩⟩

/-- Settles O43: RESULT is the masked byte at ARG0, and at an aligned index that byte is a lane of the window. -/
theorem bvByteatReadsEightBits : Obligations.BvByteatReadsEightBits := by
  refine ⟨decode_eq_ok_iff_encode_eq.2 (by decide), fun _ => raisesIllegal_of_fixedWord .bvByteat rfl, fun s w hw =>
    ⟨fun hle => (exec_bvByteat_of_le hle).trans (trap_eq_faulted hw .bvRange), fun hlt =>
      ⟨0#24 ++ s.bv.byteAt s.arg0.toNat, (exec_bvByteat_of_lt hlt).trans (finish_writeResult s _), ?_, fun k hk => ?_, fun j hj => ?_⟩⟩⟩
  · rw [← zext_byte, BitVec.toNat_setWidth]
    exact (Nat.mod_le _ _).trans_lt (BitVec.isLt _)
  · rw [BitVec.getLsbD_append, if_pos (by omega)]
    exact s.bv.getLsbD_byteAt_rev _ hk
  · rw [hj, s.bv.extractLsb'_window]

end Sys2Proof.Machine

/-! The block interleaver: where a codeword stands in the stream, and what ECC_INTERLEAVE stores in CW. -/

namespace Sys2Proof.Machine

open Sys2Proof.Spec

/-! ## Places in concatenated lists -/

section Places

variable {α β : Type} {l : List α} {i : Nat} {a : α}

/-- A list around its entry i. -/
theorem eq_take_cons_drop_of_getElem? (h : l[i]? = some a) : l = l.take i ++ a :: l.drop (i + 1) := by
  obtain ⟨hi, rfl⟩ := List.getElem?_eq_some_iff.1 h
  rw [List.getElem_cons_drop, List.take_append_drop]

/-- Entry k of the part that a flatMap makes of entry i stands k places after the parts before it. -/
theorem getElem?_flatMap_add (f : α → List β) (h : l[i]? = some a) {k : Nat} (hk : k < (f a).length) :
    (l.flatMap f)[((l.take i).map fun x => (f x).length).sum + k]? = (f a)[k]? := by
  have hsplit : l.flatMap f = (l.take i).flatMap f ++ (f a ++ (l.drop (i + 1)).flatMap f) := by
    rw [← List.flatMap_cons, ← List.flatMap_append, ← eq_take_cons_drop_of_getElem? h]
  rw [hsplit, ← List.length_flatMap, List.getElem?_append_right (Nat.le_add_right _ _), Nat.add_sub_cancel_left,
    List.getElem?_append_left hk]

/-- The value that a filterMap makes of entry i stands after those of the entries before it. -/
theorem getElem?_filterMap_length (f : α → Option β) (h : l[i]? = some a) {v : β} (hv : f a = some v) :
    (l.filterMap f)[((l.take i).filterMap f).length]? = some v := by
  have hsplit : l.filterMap f = (l.take i).filterMap f ++ v :: (l.drop (i + 1)).filterMap f := by
    rw [← List.filterMap_cons_some hv, ← List.filterMap_append, ← eq_take_cons_drop_of_getElem? h]
  rw [hsplit, List.getElem?_append_right le_rfl, Nat.sub_self, List.getElem?_cons_zero]

end Places

/-! ## The interleaved order -/

/-- The blocks that have a codeword j. -/
theorem length_column (blocks : List (List Byte)) (j : Nat) :
    (blocks.filterMap fun b => b[j]?).length = (blocks.map List.length).countP fun l => decide (j < l) := by
  rw [List.length_filterMap_eq_countP, List.countP_map]
  exact List.countP_congr fun b _ => by simp

/-- Codeword j of block b stands after the columns before j and the blocks before b in column j (44_bitvector.md R221). -/
theorem getElem?_interleave {blocks : List (List Byte)} {b j : Nat} {block : List Byte} (hb : blocks[b]? = some block)
    (hj : j < block.length) : (interleave blocks)[columnPlace (blocks.map List.length) j b]? = block[j]? := by
  have hcols : j < (blocks.map List.length).foldr max 0 :=
    hj.trans_le (List.le_max_of_le (List.mem_map_of_mem (List.mem_of_getElem? hb)) le_rfl)
  have hentry := getElem?_filterMap_length (fun x => x[j]?) hb (List.getElem?_eq_getElem hj)
  obtain ⟨hlt, -⟩ := List.getElem?_eq_some_iff.1 hentry
  have hplace := getElem?_flatMap_add (fun j => blocks.filterMap fun x => x[j]?) (List.getElem?_range hcols) hlt
  rw [List.take_range, Nat.min_eq_left hcols.le, hentry, ← List.getElem?_eq_getElem hj] at hplace
  simpa only [interleave, columnPlace, length_column, List.map_take] using hplace

/-- Block b is cut from the codewords after the data of the blocks before it (44_bitvector.md R221). -/
theorem getElem?_splitBlocks {shapes : List BlockShape} {b : Nat} {sh : BlockShape} (h : shapes[b]? = some sh) (d : List Byte) :
    (splitBlocks shapes d)[b]? = some ((d.drop ((shapes.take b).map (·.data)).sum).take sh.data) := by
  induction shapes generalizing b d with
  | nil => cases h
  | cons s shapes ih =>
    cases b with
    | zero => cases h; rfl
    | succ b => simpa [splitBlocks, List.drop_drop] using ih h (d.drop s.data)

/-- The ECC codewords of the blocks cut from the codewords d (44_bitvector.md R221). -/
def eccBlocks (shapes : List BlockShape) (d : List Byte) : List (List Byte) :=
  List.zipWith (fun b d => rsEcc d b.ecc) shapes (splitBlocks shapes d)

theorem eccStream_eq (shapes : List BlockShape) (d : List Byte) :
    eccStream shapes d = interleave (splitBlocks shapes d) ++ interleave (eccBlocks shapes d) := rfl

theorem length_splitBlocks (shapes : List BlockShape) (d : List Byte) : (splitBlocks shapes d).length = shapes.length := by
  induction shapes generalizing d with
  | nil => rfl
  | cons s shapes ih => rw [splitBlocks, List.length_cons, ih, List.length_cons]

theorem map_length_eccBlocks (shapes : List BlockShape) (d : List Byte) :
    (eccBlocks shapes d).map List.length = shapes.map (·.ecc) :=
  List.ext_getElem (by simp [eccBlocks, length_splitBlocks]) fun i _ _ => by simp [eccBlocks]

theorem getElem?_eccBlocks {shapes : List BlockShape} {b : Nat} {sh : BlockShape} (h : shapes[b]? = some sh) (d : List Byte) :
    (eccBlocks shapes d)[b]? = some (rsEcc ((d.drop ((shapes.take b).map (·.data)).sum).take sh.data) sh.ecc) := by
  rw [eccBlocks, List.getElem?_zipWith, h, getElem?_splitBlocks h]

/-- Settles O45: the stream is two interleavings, of the blocks cut from the data and of their ECC codewords. -/
theorem interleaveTakesColumns : Obligations.InterleaveTakesColumns := by
  intro shapes bytes hlen
  have hdata := map_length_splitBlocks shapes bytes hlen.ge
  have hecc := map_length_eccBlocks shapes bytes
  have hstart : (interleave (splitBlocks shapes bytes)).length = (shapes.map (·.data)).sum := by rw [length_interleave, hdata]
  refine ⟨length_eccStream shapes bytes hlen.ge, fun b sh hb => ⟨fun j hj => ?_, fun j hj => ?_⟩⟩
  · have hblock := getElem?_splitBlocks hb bytes
    have hsize : ((bytes.drop ((shapes.take b).map (·.data)).sum).take sh.data).length = sh.data := by
      have hat := congrArg (·[b]?) hdata
      simpa only [List.getElem?_map, hblock, hb, Option.map_some, Option.some.injEq] using hat
    have hplace := getElem?_interleave hblock (hj.trans_eq hsize.symm)
    obtain ⟨hlt, -⟩ := List.getElem?_eq_some_iff.1 (hplace.trans (List.getElem?_eq_getElem (hj.trans_eq hsize.symm)))
    rw [eccStream_eq, ← hdata, List.getElem?_append_left hlt, hplace, List.getElem?_take_of_lt hj, List.getElem?_drop]
  · have hplace := getElem?_interleave (getElem?_eccBlocks hb bytes) (hj.trans_eq (length_rsEcc _ _).symm)
    rw [eccStream_eq, List.getElem?_append_right (hstart.trans_le (Nat.le_add_right _ _)), hstart, Nat.add_sub_cancel_left, ← hecc, hplace]

/-! ## Bytes stored as bits -/

@[simp] theorem length_flatMap_bitsOfByte (bytes : List Byte) : (bytes.flatMap bitsOfByte).length = 8 * bytes.length := by
  simp [List.length_flatMap, Nat.mul_comm]

/-- Byte q is bits 8q to 8q + 7, the first most significant (44_bitvector.md R210, R222). -/
theorem getElem?_flatMap_bitsOfByte {bytes : List Byte} {q k : Nat} {b : Byte} (hb : bytes[q]? = some b) (hk : k < 8) :
    (bytes.flatMap bitsOfByte)[8 * q + k]? = some (b.getLsbD (7 - k)) := by
  obtain ⟨hq, -⟩ := List.getElem?_eq_some_iff.1 hb
  have hbefore : ((bytes.take q).map fun x => (bitsOfByte x).length).sum = 8 * q := by
    rw [← List.length_flatMap, length_flatMap_bitsOfByte, List.length_take_of_le hq.le]
  rw [← hbefore, getElem?_flatMap_add bitsOfByte hb (by rwa [length_bitsOfByte]), getElem?_bitsOfByte b k hk]

/-- Bytes stored bit by bit from bit 0 on are the bytes of memory (10_state.md R44). -/
theorem BitRam.read_storeAt_bytes {r : BitRam} (h : Memory.wf r.ram) {bytes : List Byte} {q : Nat} {b : Byte} (hb : bytes[q]? = some b)
    (rest : List Bool) : Memory.read (r.storeAt 0 (bytes.flatMap bitsOfByte ++ rest)).ram q = b := by
  refine BitVec.eq_of_getLsbD_eq fun i hi => ?_
  obtain ⟨hq, -⟩ := List.getElem?_eq_some_iff.1 hb
  have hbit : (bytes.flatMap bitsOfByte ++ rest)[8 * q + (7 - i)]? = some (b.getLsbD (7 - (7 - i))) := by
    rw [List.getElem?_append_left (by rw [length_flatMap_bitsOfByte]; omega)]
    exact getElem?_flatMap_bitsOfByte hb (by omega)
  have hread := bit_storeAt_add h 0 hbit
  have hbyte : (0 + (8 * q + (7 - i))) / 8 = q := by omega
  have hpos : 7 - (0 + (8 * q + (7 - i))) % 8 = i := by omega
  have hidx : 7 - (7 - i) = i := by omega
  rwa [bit, hbyte, hpos, hidx] at hread

/-! ## ECC_INTERLEAVE -/

theorem Group.shapeOk_eq_false_iff (g : Group) :
    g.shapeOk = false ↔ g.count ≠ 0 ∧ (g.data = 0 ∨ g.total.toNat < g.data.toNat) := by
  simp only [shapeOk, Bool.or_eq_false_iff, Bool.and_eq_false_iff, decide_eq_false_iff_not, not_le, ne_eq, not_not]

/-- The first check of R220 on the registers' fields. -/
theorem badBlocks_iff (s : State) : BadBlocks s ↔ s.g1.count = 0 ∨ s.g1.shapeOk = false ∨ s.g2.shapeOk = false := by
  simp only [BadBlocks, Group.shapeOk_eq_false_iff]
  tauto

theorem exec_eccInterleave_of_badBlocks {s : State} (h : BadBlocks s) : exec .eccInterleave s = trap .badConfig s :=
  if_pos ((badBlocks_iff s).1 h)

theorem exec_eccInterleave_of_length {s : State} (h : ¬ BadBlocks s) (hlen : s.bv.len.toNat ≠ 8 * dataCodewords s) :
    exec .eccInterleave s = trap .dataLength s :=
  (if_neg (mt (badBlocks_iff s).2 h)).trans (if_pos hlen)

theorem exec_eccInterleave_of_long {s : State} (h : ¬ BadBlocks s) (hlen : s.bv.len.toNat = 8 * dataCodewords s)
    (hlong : 32768 < 8 * allCodewords s + s.rembits.toNat) : exec .eccInterleave s = trap .cwOverflow s :=
  (if_neg (mt (badBlocks_iff s).2 h)).trans ((if_neg (not_not.2 hlen)).trans (if_pos hlong))

/-- The stream of R221 for the block structure of G1 and G2 over BV's bytes. -/
def State.stream (s : State) : List Byte := eccStream (groupShapes s.g1 ++ groupShapes s.g2) s.bv.codewords

/-- The bits that ECC_INTERLEAVE stores: the stream's, then REMBITS zeros (44_bitvector.md R222). -/
def State.streamBits (s : State) : List Bool := s.stream.flatMap bitsOfByte ++ List.replicate s.rembits.toNat false

theorem exec_eccInterleave_of_fits {s : State} (h : ¬ BadBlocks s) (hlen : s.bv.len.toNat = 8 * dataCodewords s)
    (hfits : 8 * allCodewords s + s.rembits.toNat ≤ 32768) :
    exec .eccInterleave s = finish { s with cw := s.cw.storeAt 0 s.streamBits } :=
  (if_neg (mt (badBlocks_iff s).2 h)).trans ((if_neg (not_not.2 hlen)).trans (if_neg hfits.not_gt))

theorem State.length_streamBits {s : State} (h : ¬ BadBlocks s) (hlen : s.bv.len.toNat = 8 * dataCodewords s) :
    s.streamBits.length = 8 * allCodewords s + s.rembits.toNat := by
  rw [badBlocks_iff, not_or, not_or, Bool.not_eq_false, Bool.not_eq_false] at h
  obtain ⟨-, h1, h2⟩ := h
  exact length_eccBits h1 h2 hlen

theorem State.length_stream {s : State} (h : ¬ BadBlocks s) (hlen : s.bv.len.toNat = 8 * dataCodewords s) :
    s.stream.length = allCodewords s := by
  have hbits := length_streamBits h hlen
  rw [streamBits, List.length_append, length_flatMap_bitsOfByte, List.length_replicate] at hbits
  omega

/-- The bits after the stream are 0 (44_bitvector.md R222). -/
theorem State.getElem?_streamBits_rest (s : State) {k : Nat} (hk : k < s.rembits.toNat) :
    s.streamBits[8 * s.stream.length + k]? = some false := by
  rw [streamBits, ← length_flatMap_bitsOfByte, List.getElem?_append_right (Nat.le_add_right _ _), Nat.add_sub_cancel_left]
  exact List.getElem?_replicate_of_lt hk

/-- Byte q of BV is bits 8q to 8q + 7, all below the length (44_bitvector.md R221). -/
theorem BitRam.getLsbD_codewords {r : BitRam} {q k : Nat} {b : Byte} (hb : r.codewords[q]? = some b) (hk : k < 8) :
    b.getLsbD (7 - k) = r.bit (8 * q + k) := by
  obtain ⟨hq, rfl⟩ : q < r.len.toNat / 8 ∧ r.byteAt (8 * q) = b := by
    simpa [codewords, List.getElem?_eq_some_iff] using hb
  have hlt : 8 * q + k < r.len.toNat := by omega
  rw [r.getLsbD_byteAt_rev _ hk, decide_eq_true hlt, Bool.true_and]

/-- Settles O44: R220's checks in order, and then the stream's bits and REMBITS zeros are stored from bit 0 on. -/
theorem eccInterleaveWritesTheStream : Obligations.EccInterleaveWritesTheStream := by
  refine ⟨decode_eq_ok_iff_encode_eq.2 (by decide), fun _ => raisesIllegal_of_fixedWord .eccInterleave rfl, fun s w hw =>
    ⟨fun hbad => ?_, fun hok hlen => ?_, fun hok hlen hlong => ?_, fun hok hlen hfits hwf => ?_⟩⟩
  · exact (exec_eccInterleave_of_badBlocks hbad).trans (trap_eq_faulted hw .badConfig)
  · exact (exec_eccInterleave_of_length hok hlen).trans (trap_eq_faulted hw .dataLength)
  · exact (exec_eccInterleave_of_long hok hlen hlong).trans (trap_eq_faulted hw .cwOverflow)
  · have hstream := State.length_stream hok hlen
    have hbits := State.length_streamBits hok hlen
    have hcwLen : (s.cw.storeAt 0 s.streamBits).len.toNat = 8 * allCodewords s + s.rembits.toNat := by
      rw [BitRam.storeAt_len _ _ _ (by omega), Nat.zero_add, hbits]
    refine ⟨_, s.bv.codewords, exec_eccInterleave_of_fits hok hlen hfits, hcwLen, ?_, fun q k b hb hk => BitRam.getLsbD_codewords hb hk,
      fun q hq => ?_, fun k hk => ?_, fun a ha => ?_⟩
    · simp [BitRam.codewords, hlen]
    · have hbyte := List.getElem?_eq_getElem (hq.trans_eq hstream.symm)
      exact (congrArg some (BitRam.read_storeAt_bytes hwf hbyte _)).trans hbyte.symm
    · have hzero := BitRam.bit_storeAt_add hwf 0 (s.getElem?_streamBits_rest hk)
      rwa [hstream, Nat.zero_add] at hzero
    · exact read_setRamBits_outside hwf 0 _ (.inr ((Nat.zero_add _).trans_le ((hbits.trans hcwLen.symm).trans_le ha)))

end Sys2Proof.Machine

/-! The symbol's commands: the words of GRID_CLEAR, GRID_STRUCT, GRID_META, GRID_DATA and GRID_BUILD, and what each check lets
through. -/

namespace Sys2Proof.Machine

open Sys2Proof.Spec

/-! ## Versions, levels, mask ids -/

@[simp] theorem sideOf_eq_side (v : BitVec 6) : sideOf v = side v := rfl

theorem versionOk_iff_isVersion {v : BitVec 6} : versionOk v = true ↔ IsVersion v := versionOk_iff

theorem versionOk_eq_false_iff {v : BitVec 6} : versionOk v = false ↔ ¬ IsVersion v := by
  rw [← versionOk_iff_isVersion, Bool.not_eq_true]

theorem ne_zero_of_isVersion {v : BitVec 6} (h : IsVersion v) : v ≠ 0 := version_ne_zero (versionOk_iff_isVersion.2 h)

theorem side_le_of_isVersion {v : BitVec 6} (h : IsVersion v) : side v ≤ 177 := Machine.side_le h.2

/-- GRID_VER holds a version while there is a grid (10_state.md R36). -/
theorem isVersion_of_ne_zero {v : BitVec 6} (h0 : v ≠ 0) (h40 : v.toNat ≤ 40) : IsVersion v :=
  ⟨Nat.one_le_iff_ne_zero.2 fun h => h0 (BitVec.eq_of_toNat_eq h), h40⟩

/-- While a grid is held, EMPTY counts its unused modules (10_state.md R38). -/
theorem unusedModules_of_ne_zero {s : State} (h : s.gridVer ≠ 0) : unusedModules s = unusedIn s.grid (side s.gridVer) := if_neg h

theorem unusedModules_setGrid {s : State} (h : s.gridVer ≠ 0) (g : Grid) :
    unusedModules { s with grid := g } = unusedIn g (side s.gridVer) := if_neg h

theorem unusedModules_newGrid (s : State) {v : BitVec 6} (h : v ≠ 0) (g : Grid) :
    unusedModules { s with gridVer := v, grid := g } = unusedIn g (side v) := if_neg h

theorem maskOk_eq_false_iff {m : Byte} : maskOk m = false ↔ 8 ≤ m.toNat := by
  rw [maskOk, decide_eq_false_iff_not, not_lt]; rfl

/-- The level bits 01, 00, 11, 10 of LEVEL 0 to 3 (45_symbol.md R250). -/
theorem levelBits_eq : ∀ level : BitVec 2, levelBits level = [1, 0, 3, 2].getD level.toNat 0 := by decide

/-! ## The commands -/

/-- A command that completes with the grid redrawn (40_command.md R133). -/
theorem finish_setGrid (s : State) (g : Grid) :
    finish { s with grid := g } = .next { s with grid := g, done := true, pending := none } := rfl

/-- A command that completes with a new grid (40_command.md R133). -/
theorem finish_newGrid (s : State) (v : BitVec 6) (g : Grid) :
    finish { s with gridVer := v, grid := g } = .next { s with gridVer := v, grid := g, done := true, pending := none } := rfl

theorem exec_gridClear {s : State} (h : IsVersion s.version) :
    exec .gridClear s = finish { s with gridVer := s.version, grid := .blank } := if_pos (versionOk_iff_isVersion.2 h)

theorem exec_gridClear_of_not_version {s : State} (h : ¬ IsVersion s.version) : exec .gridClear s = trap .badConfig s :=
  if_neg (mt versionOk_iff_isVersion.1 h)

theorem exec_gridStruct {s : State} (h : IsVersion s.version) :
    exec .gridStruct s = finish { s with gridVer := s.version, grid := structGrid s.version } := if_pos (versionOk_iff_isVersion.2 h)

theorem exec_gridStruct_of_not_version {s : State} (h : ¬ IsVersion s.version) : exec .gridStruct s = trap .badConfig s :=
  if_neg (mt versionOk_iff_isVersion.1 h)

section Masked

variable {m : Byte} {s : State}

theorem exec_gridMeta_of_mask (hm : 8 ≤ m.toNat) : exec (.gridMeta m) s = trap .badMask s := if_pos (maskOk_eq_false_iff.2 hm)

theorem exec_gridMeta_of_noGrid (hm : m.toNat < 8) (hv : s.gridVer = 0) : exec (.gridMeta m) s = trap .noGrid s :=
  (if_neg (mt maskOk_eq_false_iff.1 hm.not_ge)).trans (if_pos hv)

theorem exec_gridMeta (hm : m.toNat < 8) (hv : s.gridVer ≠ 0) :
    exec (.gridMeta m) s = finish { s with grid := s.grid.drawMeta s.gridVer s.level m.toNat } :=
  (if_neg (mt maskOk_eq_false_iff.1 hm.not_ge)).trans (if_neg hv)

theorem exec_gridData_of_mask (hm : 8 ≤ m.toNat) : exec (.gridData m) s = trap .badMask s := if_pos (maskOk_eq_false_iff.2 hm)

theorem exec_gridData_of_noGrid (hm : m.toNat < 8) (hv : s.gridVer = 0) : exec (.gridData m) s = trap .noGrid s :=
  (if_neg (mt maskOk_eq_false_iff.1 hm.not_ge)).trans (if_pos hv)

theorem exec_gridData_of_capacity (hm : m.toNat < 8) (hv : s.gridVer ≠ 0) (hlen : s.cw.len.toNat ≠ unusedModules s) :
    exec (.gridData m) s = trap .capacity s :=
  (if_neg (mt maskOk_eq_false_iff.1 hm.not_ge)).trans ((if_neg hv).trans (if_pos (s.emptyCount_eq ▸ hlen)))

theorem exec_gridData (hm : m.toNat < 8) (hv : s.gridVer ≠ 0) (hlen : s.cw.len.toNat = unusedModules s) :
    exec (.gridData m) s = finish { s with grid := s.grid.drawData (side s.gridVer) m.toNat s.cw.bits } :=
  (if_neg (mt maskOk_eq_false_iff.1 hm.not_ge)).trans ((if_neg hv).trans (if_neg (not_not.2 (s.emptyCount_eq ▸ hlen))))

theorem exec_gridBuild_of_mask (hm : 8 ≤ m.toNat) : exec (.gridBuild m) s = trap .badMask s := if_pos (maskOk_eq_false_iff.2 hm)

theorem exec_gridBuild_of_not_version (hm : m.toNat < 8) (hv : ¬ IsVersion s.version) : exec (.gridBuild m) s = trap .badConfig s :=
  (if_neg (mt maskOk_eq_false_iff.1 hm.not_ge)).trans (if_pos (versionOk_eq_false_iff.2 hv))

theorem exec_gridBuild_of_capacity (hm : m.toNat < 8) (hv : IsVersion s.version) (hlen : s.cw.len.toNat ≠ dataModules s.version) :
    exec (.gridBuild m) s = trap .capacity s :=
  (if_neg (mt maskOk_eq_false_iff.1 hm.not_ge)).trans ((if_neg (mt versionOk_eq_false_iff.1 (not_not.2 hv))).trans (if_pos hlen))

theorem exec_gridBuild (hm : m.toNat < 8) (hv : IsVersion s.version) (hlen : s.cw.len.toNat = dataModules s.version) :
    exec (.gridBuild m) s = finish { s with gridVer := s.version, grid := builtGrid s.version s.level s.cw.bits m.toNat } :=
  (if_neg (mt maskOk_eq_false_iff.1 hm.not_ge)).trans
    ((if_neg (mt versionOk_eq_false_iff.1 (not_not.2 hv))).trans (if_neg (not_not.2 hlen)))

end Masked

/-- The word of a command whose one operand is I1 (30_encoding.md R101). -/
theorem toWord_immediate1 (op a : Byte) : Fields.toWord op { i1 := a } = (zext a <<< 16) ||| zext op :=
  (toWord_immediates op a 0).trans (by simp)

/-- Settles O46: a version passes the one check, and a cleared symbol has all its modules unused. -/
theorem gridClearAndStructStartAGrid : Obligations.GridClearAndStructStartAGrid := by
  refine ⟨decode_eq_ok_iff_encode_eq.2 (by decide), fun _ => raisesIllegal_of_fixedWord .gridClear rfl,
    decode_eq_ok_iff_encode_eq.2 (by decide), fun _ => raisesIllegal_of_fixedWord .gridStruct rfl, fun s w hw =>
    ⟨fun hv => ⟨?_, ?_⟩, fun hv => ⟨.blank, (exec_gridClear hv).trans (finish_newGrid s _ _), fun x y _ _ => Grid.get_blank x y, ?_, ?_,
      (exec_gridStruct hv).trans (finish_newGrid s _ _), rfl⟩⟩⟩
  · exact (exec_gridClear_of_not_version hv).trans (trap_eq_faulted hw .badConfig)
  · exact (exec_gridStruct_of_not_version hv).trans (trap_eq_faulted hw .badConfig)
  · exact (unusedModules_newGrid s (ne_zero_of_isVersion hv) _).trans ((Grid.empty_eq_card _ _).symm.trans (Grid.empty_blank _))
  · exact (State.toNat_sizeWord hv.2).trans (if_neg (ne_zero_of_isVersion hv))

/-- Settles O48: the mask id and the held grid are checked in this order. -/
theorem gridMetaDrawsTheMetaInformation : Obligations.GridMetaDrawsTheMetaInformation := by
  refine ⟨fun m => decode_eq_ok_iff_encode_eq.2 (toWord_immediate1 0x42 m), fun _ => raisesIllegal_of_reserved (.gridMeta 0) rfl rfl,
    fun m s w hw => ⟨fun hm => ?_, fun hm hv => ?_, fun hm hv => (exec_gridMeta hm hv).trans (finish_setGrid s _)⟩⟩
  · exact (exec_gridMeta_of_mask hm).trans (trap_eq_faulted hw .badMask)
  · exact (exec_gridMeta_of_noGrid hm hv).trans (trap_eq_faulted hw .noGrid)

/-! ## Format and version info -/

/-- FMT is the BCH code word of R251 for each of the 32 pairs of level bits and mask. -/
theorem formatInfo_eq_bch : ∀ l < 4, ∀ m < 8,
    formatInfo l m = ((8 * l + m) * 1024 ||| bchRemainder 5 10 0x537 ((8 * l + m) * 1024)) ^^^ 0x5412 := by decide +kernel

/-- VER is the BCH code word of R253 for each of the 34 versions that show it. -/
theorem versionInfo_eq_bch : ∀ v : BitVec 6, 7 ≤ v.toNat → v.toNat ≤ 40 →
    versionInfo v = v.toNat * 4096 ||| bchRemainder 6 12 0x1F25 (v.toNat * 4096) := by decide +kernel

/-- Settles O50: the long division is run on every entry of the two tables. -/
theorem formatAndVersionInfoAreBchCodewords : Obligations.FormatAndVersionInfoAreBchCodewords :=
  ⟨fun l m hl hm => formatInfo_eq_bch l hl m hm, versionInfo_eq_bch, rfl, rfl, rfl, rfl⟩

end Sys2Proof.Machine

/-! The structural and the meta drawing, each as a relation between a module and the value that its puts give it: where puts meet,
they agree, so that the order of the puts does not matter. -/

namespace Sys2Proof.Machine

open Sys2Proof.Spec

/-! ## Drawings whose puts agree -/

/-- The puts of a drawing are the relation R: module (x, y) is put with value b exactly when R x y b. -/
def Draws (ps : List Put) (R : Nat → Nat → Bool → Prop) : Prop := ∀ x y b, ⟨x, y, b⟩ ∈ ps ↔ R x y b

section Draws

variable {ps : List Put} {R : Nat → Nat → Bool → Prop} {g : Grid} {x y : Nat}

/-- If no module is put with two values, every module that is put has its value. -/
theorem Draws.get_of_rel (h : Draws ps R) (hR : ∀ {x y b b'}, R x y b → R x y b' → b = b') {b : Bool} (hx : x < 177) (hy : y < 177)
    (hb : R x y b) : (g.draw ps).get x y = ⟨b, true⟩ :=
  Grid.get_draw_of_mem g ps hx hy ⟨⟨x, y, b⟩, (h x y b).2 hb, rfl, rfl⟩ fun p hp hpx hpy => by
    subst hpx hpy
    exact hR ((h p.x p.y p.b).1 hp) hb

theorem Draws.get_of_not_rel (h : Draws ps R) (hn : ∀ b, ¬ R x y b) : (g.draw ps).get x y = g.get x y :=
  Grid.get_draw_of_not_mem g ps fun p hp hxy => hn p.b (by rw [hxy.1, hxy.2]; exact (h _ _ _).1 hp)

end Draws

/-! ## Structural puts -/

/-- `StructuralPut v x y b`: a structural pattern of version v gives module (x, y) the value b (45_symbol.md R243 to R246). -/
inductive StructuralPut (v : BitVec 6) : Nat → Nat → Bool → Prop
  /-- A finder (R243). -/
  | finder {fx fy dx dy : Nat} (hc : FinderCorner (side v) fx fy) (hx : dx ≤ 6) (hy : dy ≤ 6) :
      StructuralPut v (fx + dx) (fy + dy) (finderValue dx dy)
  /-- A separator (R244). -/
  | separator {x y : Nat} (h : SeparatorModule (side v) x y) : StructuralPut v x y false
  /-- An alignment pattern (R245). -/
  | alignment {cx cy x y : Nat} (hc : AlignmentCentre v cx cy) (hx : gap x cx ≤ 2) (hy : gap y cy ≤ 2) :
      StructuralPut v x y (decide (max (gap x cx) (gap y cy) ≠ 1))
  /-- The timing strip in row 6 (R246). -/
  | timingRow {k : Nat} (hlo : 8 ≤ k) (hhi : k < side v - 8) : StructuralPut v k 6 (decide (k % 2 = 0))
  /-- The timing strip in column 6 (R246). -/
  | timingColumn {k : Nat} (hlo : 8 ≤ k) (hhi : k < side v - 8) : StructuralPut v 6 k (decide (k % 2 = 0))

theorem mem_finderPuts {fx fy x y : Nat} {b : Bool} :
    (⟨x, y, b⟩ : Put) ∈ finderPuts fx fy ↔ ∃ dx dy, dx ≤ 6 ∧ dy ≤ 6 ∧ x = fx + dx ∧ y = fy + dy ∧ b = finderValue dx dy := by
  have hval (dx dy : Nat) : (decide (dx = 0) || decide (dx = 6) || decide (dy = 0) || decide (dy = 6) ||
      (decide (2 ≤ dx) && decide (dx ≤ 4) && decide (2 ≤ dy) && decide (dy ≤ 4))) = finderValue dx dy := by
    simp only [finderValue, Bool.decide_or, Bool.decide_and, Bool.or_assoc, Bool.and_assoc]
  simp only [finderPuts, hval, List.mem_flatMap, List.mem_map, List.mem_range, Put.mk.injEq]
  constructor
  · rintro ⟨dy, hy, dx, hx, h1, h2, h3⟩
    exact ⟨dx, dy, by omega, by omega, h1.symm, h2.symm, h3.symm⟩
  · rintro ⟨dx, dy, hx, hy, h1, h2, h3⟩
    exact ⟨dy, by omega, dx, by omega, h1.symm, h2.symm, h3.symm⟩

theorem mem_separatorPuts {s fx fy x y : Nat} {b : Bool} :
    (⟨x, y, b⟩ : Put) ∈ separatorPuts s fx fy ↔ b = false ∧ x < s ∧ y < s ∧
      fx ≤ x + 1 ∧ x ≤ fx + 7 ∧ fy ≤ y + 1 ∧ y ≤ fy + 7 ∧ (x + 1 = fx ∨ x = fx + 7 ∨ y + 1 = fy ∨ y = fy + 7) := by
  simp only [separatorPuts, List.mem_flatMap, List.mem_filterMap, List.mem_range, Option.ite_none_right_eq_some, Option.some.injEq,
    Put.mk.injEq]
  constructor
  · rintro ⟨j, hj, i, hi, hedge, rfl, rfl, rfl⟩
    exact ⟨rfl, by omega⟩
  · rintro ⟨rfl, h⟩
    exact ⟨y + 1 - fy, by omega, x + 1 - fx, by omega, by omega, by omega, by omega, rfl⟩

theorem mem_alignmentPuts {cx cy x y : Nat} {b : Bool} (hcx : 2 ≤ cx) (hcy : 2 ≤ cy) :
    (⟨x, y, b⟩ : Put) ∈ alignmentPuts cx cy ↔ gap x cx ≤ 2 ∧ gap y cy ≤ 2 ∧ b = decide (max (gap x cx) (gap y cy) ≠ 1) := by
  have hval (i j : Nat) : (!(decide (1 ≤ i ∧ i ≤ 3 ∧ 1 ≤ j ∧ j ≤ 3) && !decide (i = 2 ∧ j = 2))) =
      decide (max (gap i 2) (gap j 2) ≠ 1) := by
    rw [Bool.eq_iff_iff]
    simp only [Bool.not_eq_true', Bool.and_eq_false_iff, Bool.not_eq_false', decide_eq_false_iff_not, decide_eq_true_eq]
    unfold gap; omega
  simp only [alignmentPuts, hval, List.mem_flatMap, List.mem_map, List.mem_range, Put.mk.injEq]
  constructor
  · rintro ⟨j, hj, i, hi, rfl, rfl, rfl⟩
    have hgx : gap (cx + i - 2) cx = gap i 2 := by unfold gap; omega
    have hgy : gap (cy + j - 2) cy = gap j 2 := by unfold gap; omega
    rw [hgx, hgy]
    exact ⟨by unfold gap; omega, by unfold gap; omega, rfl⟩
  · rintro ⟨hx, hy, rfl⟩
    have hgx : gap (x + 2 - cx) 2 = gap x cx := by unfold gap at *; omega
    have hgy : gap (y + 2 - cy) 2 = gap y cy := by unfold gap at *; omega
    unfold gap at hx hy
    exact ⟨y + 2 - cy, by omega, x + 2 - cx, by omega, by omega, by omega, by rw [hgx, hgy]⟩

theorem mem_timingPuts {s x y : Nat} {b : Bool} : (⟨x, y, b⟩ : Put) ∈ timingPuts s ↔
    ∃ k, 8 ≤ k ∧ k < s - 8 ∧ (x = k ∧ y = 6 ∨ x = 6 ∧ y = k) ∧ b = decide (k % 2 = 0) := by
  simp only [timingPuts, List.mem_flatMap, List.mem_range, List.mem_cons, List.not_mem_nil, or_false, Put.mk.injEq]
  constructor
  · rintro ⟨i, hi, ⟨hx, hy, hb⟩ | ⟨hx, hy, hb⟩⟩
    · exact ⟨8 + i, by omega, by omega, .inl ⟨hx, hy⟩, hb⟩
    · exact ⟨8 + i, by omega, by omega, .inr ⟨hx, hy⟩, hb⟩
  · rintro ⟨k, hlo, hhi, hxy, hb⟩
    have hk : 8 + (k - 8) = k := by omega
    refine ⟨k - 8, by omega, ?_⟩
    rw [hk]
    exact hxy.imp (fun h => ⟨h.1, h.2, hb⟩) fun h => ⟨h.1, h.2, hb⟩

/-! ## The alignment coordinates -/

/-- A coordinate of ALIGN[v] is even, and it is that of a finder's column or row or well away from both (45_symbol.md R245). -/
theorem alignAt_apart : ∀ v : BitVec 6, ∀ c ∈ alignAt v,
    c % 2 = 0 ∧ c + 7 ≤ side v ∧ (c = 6 ∨ c + 7 = side v ∨ 16 ≤ c ∧ c + 17 ≤ side v) := by
  decide

/-- Different coordinates of ALIGN[v] are too far apart for two patterns to meet (45_symbol.md R245). -/
theorem alignAt_spaced : ∀ v : BitVec 6, ∀ c ∈ alignAt v, ∀ d ∈ alignAt v, gap c d ≤ 4 → c = d := by decide +kernel

/-- The three pairs of coordinates left out are those at the finders (45_symbol.md R245). -/
theorem alignmentCentres_eq : ∀ v : BitVec 6, alignmentCentres v = ((alignAt v).product (alignAt v)).filter fun c =>
    ¬ (c.1 = 6 ∧ c.2 = 6) ∧ ¬ (c.1 = 6 ∧ c.2 = side v - 7) ∧ ¬ (c.1 = side v - 7 ∧ c.2 = 6) := by
  decide +kernel

theorem mem_alignmentCentres_iff {v : BitVec 6} {cx cy : Nat} : (cx, cy) ∈ alignmentCentres v ↔ AlignmentCentre v cx cy := by
  rw [alignmentCentres_eq, List.mem_filter, List.pair_mem_product, decide_eq_true_iff, and_assoc]; rfl

/-! ## The structural drawing -/

/-- (x, y) is a module of one of the three corners, which hold the finders and their separators (45_symbol.md R243, R244). -/
def InCorner (s x y : Nat) : Prop := x < s ∧ y < s ∧ (x < 8 ∧ y < 8 ∨ s ≤ x + 8 ∧ y < 8 ∨ x < 8 ∧ s ≤ y + 8)

/-- Finders and separators fill the corners (45_symbol.md R243, R244). -/
theorem inCorner_iff {s x y : Nat} (hs : 21 ≤ s) : InCorner s x y ↔
    (∃ fx fy, FinderCorner s fx fy ∧ fx ≤ x ∧ x < fx + 7 ∧ fy ≤ y ∧ y < fy + 7) ∨ SeparatorModule s x y := by
  constructor
  · rintro ⟨hx, hy, hc⟩
    obtain ⟨fx, fy, hc, hxy⟩ : ∃ fx fy, FinderCorner s fx fy ∧ fx ≤ x + 1 ∧ x ≤ fx + 7 ∧ fy ≤ y + 1 ∧ y ≤ fy + 7 := by
      obtain h | h | h := hc
      · exact ⟨0, 0, .inl ⟨rfl, rfl⟩, by omega⟩
      · exact ⟨s - 7, 0, .inr (.inl ⟨rfl, rfl⟩), by omega⟩
      · exact ⟨0, s - 7, .inr (.inr ⟨rfl, rfl⟩), by omega⟩
    by_cases hedge : x + 1 = fx ∨ x = fx + 7 ∨ y + 1 = fy ∨ y = fy + 7
    · exact .inr ⟨hx, hy, fx, fy, hc, by omega⟩
    · exact .inl ⟨fx, fy, hc, by omega⟩
  · rintro (⟨fx, fy, hc, h⟩ | ⟨hx, hy, fx, fy, hc, h⟩) <;> unfold FinderCorner at hc <;> unfold InCorner <;> omega

/-- An alignment pattern keeps out of the corners (45_symbol.md R245). -/
theorem alignment_not_inCorner {v : BitVec 6} {cx cy x y : Nat} (hc : AlignmentCentre v cx cy) (hx : gap x cx ≤ 2)
    (hy : gap y cy ≤ 2) : ¬ InCorner (side v) x y := by
  obtain ⟨hcx, hcy, h66, h67, h76⟩ := hc
  obtain ⟨-, -, hx'⟩ := alignAt_apart v cx hcx
  obtain ⟨-, -, hy'⟩ := alignAt_apart v cy hcy
  have hs := side_ge v
  rw [sideOf_eq_side] at h67 h76
  unfold gap at hx hy
  unfold InCorner
  omega

/-- Two alignment patterns that meet are one (45_symbol.md R245). -/
theorem alignment_eq_of_meet {v : BitVec 6} {cx cy dx dy x y : Nat} (hc : AlignmentCentre v cx cy) (hd : AlignmentCentre v dx dy)
    (hcx : gap x cx ≤ 2) (hcy : gap y cy ≤ 2) (hdx : gap x dx ≤ 2) (hdy : gap y dy ≤ 2) : cx = dx ∧ cy = dy := by
  obtain ⟨hcx', hcy', -⟩ := hc
  obtain ⟨hdx', hdy', -⟩ := hd
  exact ⟨alignAt_spaced v cx hcx' dx hdx' (by unfold gap at *; omega), alignAt_spaced v cy hcy' dy hdy' (by unfold gap at *; omega)⟩

/-- On a timing strip an alignment pattern, whose centre is even, alternates as the strip does (45_symbol.md R245, R246). -/
theorem alignment_eq_timing {v : BitVec 6} {c k d : Nat} (hc : c ∈ alignAt v) (hk : gap k c ≤ 2) (hd : d ∈ alignAt v) (h6 : gap 6 d ≤ 2) :
    max (gap k c) (gap 6 d) ≠ 1 ↔ k % 2 = 0 := by
  obtain ⟨heven, -, -⟩ := alignAt_apart v c hc
  obtain ⟨-, hd7, hd6⟩ := alignAt_apart v d hd
  have hs := side_ge v
  unfold gap at *
  omega

section Meet

variable {v : BitVec 6} {x y : Nat} {b b' : Bool}

theorem finder_inCorner {fx fy dx dy : Nat} (hc : FinderCorner (side v) fx fy) (hx : dx ≤ 6) (hy : dy ≤ 6) :
    InCorner (side v) (fx + dx) (fy + dy) :=
  (inCorner_iff (side_ge v)).2 (.inl ⟨fx, fy, hc, by omega⟩)

theorem separator_inCorner (h : SeparatorModule (side v) x y) : InCorner (side v) x y := (inCorner_iff (side_ge v)).2 (.inr h)

theorem StructuralPut.eq_timing {k : Nat} (h : StructuralPut v x y b) (hlo : 8 ≤ k) (hhi : k < side v - 8)
    (hxy : x = k ∧ y = 6 ∨ x = 6 ∧ y = k) : b = decide (k % 2 = 0) := by
  have hcorner : ¬ InCorner (side v) x y := by unfold InCorner; omega
  cases h with
  | finder hc hx hy => exact absurd (finder_inCorner hc hx hy) hcorner
  | separator hs => exact absurd (separator_inCorner hs) hcorner
  | alignment hc hx hy =>
    obtain ⟨hcx, hcy, -⟩ := hc
    obtain ⟨rfl, rfl⟩ | ⟨rfl, rfl⟩ := hxy
    · exact decide_eq_decide.2 (alignment_eq_timing hcx hx hcy hy)
    · rw [max_comm]; exact decide_eq_decide.2 (alignment_eq_timing hcy hy hcx hx)
  | timingRow => exact decide_eq_decide.2 (by omega)
  | timingColumn => exact decide_eq_decide.2 (by omega)

theorem StructuralPut.eq_alignment {cx cy : Nat} (h : StructuralPut v x y b) (hc : AlignmentCentre v cx cy) (hx : gap x cx ≤ 2)
    (hy : gap y cy ≤ 2) : b = decide (max (gap x cx) (gap y cy) ≠ 1) := by
  have hcorner := alignment_not_inCorner hc hx hy
  cases h with
  | finder hf hdx hdy => exact absurd (finder_inCorner hf hdx hdy) hcorner
  | separator hs => exact absurd (separator_inCorner hs) hcorner
  | alignment hd hdx hdy => obtain ⟨rfl, rfl⟩ := alignment_eq_of_meet hc hd hx hy hdx hdy; rfl
  | timingRow hlo hhi => exact ((StructuralPut.alignment hc hx hy).eq_timing hlo hhi (.inl ⟨rfl, rfl⟩)).symm
  | timingColumn hlo hhi => exact ((StructuralPut.alignment hc hx hy).eq_timing hlo hhi (.inr ⟨rfl, rfl⟩)).symm

theorem StructuralPut.eq_separator (h : StructuralPut v x y b) (hsep : SeparatorModule (side v) x y) : b = false := by
  have hs := side_ge v
  cases h with
  | finder hf hdx hdy =>
    obtain ⟨-, -, gx, gy, hg, hedge⟩ := hsep
    unfold FinderCorner at hf hg
    omega
  | separator => rfl
  | alignment hc hx hy => exact absurd (separator_inCorner hsep) (alignment_not_inCorner hc hx hy)
  | timingRow hlo hhi => exact ((StructuralPut.separator hsep).eq_timing hlo hhi (.inl ⟨rfl, rfl⟩)).symm
  | timingColumn hlo hhi => exact ((StructuralPut.separator hsep).eq_timing hlo hhi (.inr ⟨rfl, rfl⟩)).symm

/-- Two finders do not meet (45_symbol.md R243). -/
theorem finder_eq_of_meet {s fx fy gx gy dx dy ex ey : Nat} (hs : 21 ≤ s) (hf : FinderCorner s fx fy) (hg : FinderCorner s gx gy)
    (hdx : dx ≤ 6) (hdy : dy ≤ 6) (hex : ex ≤ 6) (hey : ey ≤ 6) (hx : fx + dx = gx + ex) (hy : fy + dy = gy + ey) :
    dx = ex ∧ dy = ey := by
  unfold FinderCorner at hf hg
  omega

/-- Where structural puts meet they agree. -/
theorem StructuralPut.functional (h : StructuralPut v x y b) (h' : StructuralPut v x y b') : b = b' := by
  cases h' with
  | timingRow hlo hhi => exact h.eq_timing hlo hhi (.inl ⟨rfl, rfl⟩)
  | timingColumn hlo hhi => exact h.eq_timing hlo hhi (.inr ⟨rfl, rfl⟩)
  | alignment hc hx hy => exact h.eq_alignment hc hx hy
  | separator hs => exact h.eq_separator hs
  | @finder gx gy ex ey hg hex hey =>
    have hfinder := StructuralPut.finder hg hex hey
    generalize hx : gx + ex = x at h hfinder
    generalize hy : gy + ey = y at h hfinder
    cases h with
    | finder hf hdx hdy =>
      obtain ⟨rfl, rfl⟩ := finder_eq_of_meet (side_ge v) hf hg hdx hdy hex hey hx.symm hy.symm; rfl
    | separator hs => exact (hfinder.eq_separator hs).symm
    | alignment hc hx hy => exact (hfinder.eq_alignment hc hx hy).symm
    | timingRow hlo hhi => exact (hfinder.eq_timing hlo hhi (.inl ⟨rfl, rfl⟩)).symm
    | timingColumn hlo hhi => exact (hfinder.eq_timing hlo hhi (.inr ⟨rfl, rfl⟩)).symm

end Meet

/-- Draw-structural puts the finders with their separators, the alignment patterns and the timing strips (45_symbol.md R247). -/
theorem mem_structPuts {v : BitVec 6} {p : Put} : p ∈ structPuts v ↔
    (∃ fx fy, FinderCorner (side v) fx fy ∧ (p ∈ finderPuts fx fy ∨ p ∈ separatorPuts (side v) fx fy)) ∨
      (∃ cx cy, AlignmentCentre v cx cy ∧ p ∈ alignmentPuts cx cy) ∨ p ∈ timingPuts (side v) := by
  simp only [structPuts, List.mem_append, List.mem_flatMap, Prod.exists, mem_alignmentCentres_iff, or_assoc]
  constructor
  · rintro (h | h | h | h | h | h | h)
    · exact .inl ⟨0, 0, .inl ⟨rfl, rfl⟩, .inl h⟩
    · exact .inl ⟨0, 0, .inl ⟨rfl, rfl⟩, .inr h⟩
    · exact .inl ⟨_, _, .inr (.inl ⟨rfl, rfl⟩), .inl h⟩
    · exact .inl ⟨_, _, .inr (.inl ⟨rfl, rfl⟩), .inr h⟩
    · exact .inl ⟨_, _, .inr (.inr ⟨rfl, rfl⟩), .inl h⟩
    · exact .inl ⟨_, _, .inr (.inr ⟨rfl, rfl⟩), .inr h⟩
    · exact .inr h
  · rintro (⟨fx, fy, ⟨rfl, rfl⟩ | ⟨rfl, rfl⟩ | ⟨rfl, rfl⟩, h⟩ | h)
    · exact h.imp_right .inl
    · exact .inr (.inr (h.imp_right .inl))
    · exact .inr (.inr (.inr (.inr (h.imp_right .inl))))
    · exact .inr (.inr (.inr (.inr (.inr (.inr h)))))

/-- The structural puts are those of `StructuralPut` (45_symbol.md R243 to R246). -/
theorem draws_structPuts (v : BitVec 6) : Draws (structPuts v) (StructuralPut v) := by
  intro x y b
  have hcentre {cx cy : Nat} (hc : AlignmentCentre v cx cy) : (⟨x, y, b⟩ : Put) ∈ alignmentPuts cx cy ↔
      gap x cx ≤ 2 ∧ gap y cy ≤ 2 ∧ b = decide (max (gap x cx) (gap y cy) ≠ 1) := by
    obtain ⟨hx, hy, -⟩ := hc
    have hs := side_ge v
    have hx' := alignAt_apart v _ hx
    have hy' := alignAt_apart v _ hy
    exact mem_alignmentPuts (by omega) (by omega)
  rw [mem_structPuts]
  constructor
  · rintro (⟨fx, fy, hc, h | h⟩ | ⟨cx, cy, hc, h⟩ | h)
    · obtain ⟨dx, dy, hx, hy, rfl, rfl, rfl⟩ := mem_finderPuts.1 h
      exact .finder hc hx hy
    · obtain ⟨rfl, hx, hy, hedge⟩ := mem_separatorPuts.1 h
      exact .separator ⟨hx, hy, fx, fy, hc, hedge⟩
    · obtain ⟨hx, hy, rfl⟩ := (hcentre hc).1 h
      exact .alignment hc hx hy
    · obtain ⟨k, hlo, hhi, ⟨rfl, rfl⟩ | ⟨rfl, rfl⟩, rfl⟩ := mem_timingPuts.1 h
      · exact .timingRow hlo hhi
      · exact .timingColumn hlo hhi
  · rintro (⟨hc, hx, hy⟩ | ⟨hx, hy, fx, fy, hc, hedge⟩ | ⟨hc, hx, hy⟩ | ⟨hlo, hhi⟩ | ⟨hlo, hhi⟩)
    · exact .inl ⟨_, _, hc, .inl (mem_finderPuts.2 ⟨_, _, hx, hy, rfl, rfl, rfl⟩)⟩
    · exact .inl ⟨fx, fy, hc, .inr (mem_separatorPuts.2 ⟨rfl, hx, hy, hedge⟩)⟩
    · exact .inr (.inl ⟨_, _, hc, (hcentre hc).2 ⟨hx, hy, rfl⟩⟩)
    · exact .inr (.inr (mem_timingPuts.2 ⟨_, hlo, hhi, .inl ⟨rfl, rfl⟩, rfl⟩))
    · exact .inr (.inr (mem_timingPuts.2 ⟨_, hlo, hhi, .inr ⟨rfl, rfl⟩, rfl⟩))

/-- The modules of the structural patterns are those that are put (45_symbol.md R243 to R246). -/
theorem structuralModule_iff {v : BitVec 6} {x y : Nat} : StructuralModule v x y ↔ ∃ b, StructuralPut v x y b := by
  constructor
  · rintro (⟨fx, fy, hc, hx, hx', hy, hy'⟩ | h | ⟨cx, cy, hc, hx, hy⟩ | ⟨rfl, hlo, hhi⟩ | ⟨rfl, hlo, hhi⟩)
    · have hput := StructuralPut.finder hc (dx := x - fx) (dy := y - fy) (by omega) (by omega)
      rw [Nat.add_sub_cancel' hx, Nat.add_sub_cancel' hy] at hput
      exact ⟨_, hput⟩
    · exact ⟨_, .separator h⟩
    · exact ⟨_, .alignment hc hx hy⟩
    · exact ⟨_, .timingRow hlo hhi⟩
    · exact ⟨_, .timingColumn hlo hhi⟩
  · rintro ⟨b, hc | h | ⟨hc, hx, hy⟩ | ⟨hlo, hhi⟩ | ⟨hlo, hhi⟩⟩
    · exact .inl ⟨_, _, hc, by omega⟩
    · exact .inr (.inl h)
    · exact .inr (.inr (.inl ⟨_, _, hc, hx, hy⟩))
    · exact .inr (.inr (.inr (.inl ⟨rfl, hlo, hhi⟩)))
    · exact .inr (.inr (.inr (.inr ⟨rfl, hlo, hhi⟩)))

/-- A module with a structural put has the put's value in GRID_STRUCT's grid (45_symbol.md R248). -/
theorem StructuralPut.get_structGrid {v : BitVec 6} {x y : Nat} {b : Bool} (h : StructuralPut v x y b) (hv : IsVersion v) :
    (structGrid v).get x y = ⟨b, true⟩ := by
  have hs := side_le_of_isVersion hv
  obtain ⟨hx, hy⟩ := structPuts_bound v _ ((draws_structPuts v x y b).2 h)
  exact (draws_structPuts v).get_of_rel StructuralPut.functional (hx.trans_le hs) (hy.trans_le hs) h

theorem get_structGrid_of_not {v : BitVec 6} {x y : Nat} (h : ¬ StructuralModule v x y) : (structGrid v).get x y = .blank :=
  ((draws_structPuts v).get_of_not_rel fun b hb => h (structuralModule_iff.2 ⟨b, hb⟩)).trans (Grid.get_blank x y)

/-- Settles O47: the structural puts agree where they meet, so that each pattern's modules have the pattern's values. -/
theorem structuralModulesHaveTheirValues : Obligations.StructuralModulesHaveTheirValues := by
  refine fun v hv => ⟨fun fx fy dx dy hc hx hy => ?_, fun x y h => ?_, fun cx cy x y hc hx hy => ?_, fun k hlo hhi => ⟨?_, ?_⟩,
    fun x y h => get_structGrid_of_not h⟩
  · exact (StructuralPut.finder hc hx hy).get_structGrid hv
  · exact (StructuralPut.separator h).get_structGrid hv
  · exact (StructuralPut.alignment hc hx hy).get_structGrid hv
  · exact (StructuralPut.timingRow hlo hhi).get_structGrid hv
  · exact (StructuralPut.timingColumn hlo hhi).get_structGrid hv

/-! ## The meta drawing -/

/-- `MetaPut v level m x y b`: the format info, the dark module or the version info gives module (x, y) the value b
(45_symbol.md R252, R254, R255). -/
inductive MetaPut (v : BitVec 6) (level : BitVec 2) (m : Nat) : Nat → Nat → Bool → Prop
  /-- Bit i of the format info, in either copy (R252). -/
  | format {i x y : Nat} (hi : i < 15) (h : (x, y) = formatPosition1 i ∨ (x, y) = formatPosition2 (side v) i) :
      MetaPut v level m x y ((formatInfo (levelBits level) m).testBit i)
  /-- The dark module (R255). -/
  | dark : MetaPut v level m 8 (side v - 8) true
  /-- Bit i of the version info, in either block (R254). -/
  | version {i x y : Nat} (hv : 7 ≤ v.toNat) (hi : i < 18)
      (h : (x, y) = (side v - 11 + i % 3, i / 3) ∨ (x, y) = (i / 3, side v - 11 + i % 3)) :
      MetaPut v level m x y ((versionInfo v).testBit i)

theorem formatPuts_eq (s f : Nat) : formatPuts s f =
    (List.range 15).map (fun i => ⟨(formatPosition1 i).1, (formatPosition1 i).2, f.testBit i⟩) ++
      (List.range 15).map fun i => ⟨(formatPosition2 s i).1, (formatPosition2 s i).2, f.testBit i⟩ := rfl

theorem mem_formatPuts {s f x y : Nat} {b : Bool} : (⟨x, y, b⟩ : Put) ∈ formatPuts s f ↔
    ∃ i, i < 15 ∧ ((x, y) = formatPosition1 i ∨ (x, y) = formatPosition2 s i) ∧ b = f.testBit i := by
  simp only [formatPuts_eq, List.mem_append, List.mem_map, List.mem_range, Put.mk.injEq, Prod.ext_iff, or_and_right, and_or_left, exists_or,
    and_assoc, eq_comm (b := x), eq_comm (b := y), eq_comm (b := b)]

theorem mem_versionPuts {v : BitVec 6} {x y : Nat} {b : Bool} : (⟨x, y, b⟩ : Put) ∈ versionPuts v ↔
    7 ≤ v.toNat ∧ ∃ i, i < 18 ∧ ((x, y) = (side v - 11 + i % 3, i / 3) ∨ (x, y) = (i / 3, side v - 11 + i % 3)) ∧
      b = (versionInfo v).testBit i := by
  unfold versionPuts
  split
  · next h => simp [h]
  · next h => simp [not_lt.1 h, or_and_right, and_assoc]

/-- The meta puts are those of `MetaPut` (45_symbol.md R256). -/
theorem draws_metaPuts (v : BitVec 6) (level : BitVec 2) (m : Nat) : Draws (metaPuts v level m) (MetaPut v level m) := by
  intro x y b
  simp only [metaPuts, darkModulePuts, List.mem_append, List.mem_singleton, Put.mk.injEq, mem_formatPuts, mem_versionPuts]
  constructor
  · rintro ((⟨i, hi, h, rfl⟩ | ⟨rfl, rfl, rfl⟩) | ⟨hv, i, hi, h, rfl⟩)
    · exact .format hi h
    · exact .dark
    · exact .version hv hi h
  · rintro (⟨hi, h⟩ | _ | ⟨hv, hi, h⟩)
    · exact .inl (.inl ⟨_, hi, h, rfl⟩)
    · exact .inl (.inr ⟨rfl, rfl, rfl⟩)
    · exact .inr ⟨hv, _, hi, h, rfl⟩

/-- The modules of the meta patterns are those that are put (45_symbol.md R252, R254, R255). -/
theorem metaModule_iff {v : BitVec 6} (level : BitVec 2) (m : Nat) {x y : Nat} : MetaModule v x y ↔ ∃ b, MetaPut v level m x y b := by
  constructor
  · rintro (⟨i, hi, h⟩ | ⟨rfl, rfl⟩ | ⟨hv, i, hi, h⟩)
    · exact ⟨_, .format hi h⟩
    · exact ⟨_, .dark⟩
    · exact ⟨_, .version hv hi h⟩
  · rintro ⟨b, ⟨hi, h⟩ | _ | ⟨hv, hi, h⟩⟩
    · exact .inl ⟨_, hi, h⟩
    · exact .inr (.inl ⟨rfl, rfl⟩)
    · exact .inr (.inr ⟨hv, _, hi, h⟩)

/-- Copy 1 runs down column 8 and then left along row 8, around the timing strips (45_symbol.md R252). -/
theorem formatPosition1_iff {i x y : Nat} : (x, y) = formatPosition1 i ↔
    x = 8 ∧ (i < 6 ∧ y = i ∨ i = 6 ∧ y = 7 ∨ i = 7 ∧ y = 8) ∨ y = 8 ∧ (i = 8 ∧ x = 7 ∨ 9 ≤ i ∧ x = 14 - i) := by
  unfold formatPosition1
  split_ifs <;> rw [Prod.mk.injEq] <;> omega

/-- Copy 2 runs left along row 8 from the right and then down column 8 to the bottom (45_symbol.md R252). -/
theorem formatPosition2_iff {s i x y : Nat} : (x, y) = formatPosition2 s i ↔
    y = 8 ∧ i < 8 ∧ x = s - 1 - i ∨ x = 8 ∧ 8 ≤ i ∧ y = s - 15 + i := by
  unfold formatPosition2
  split_ifs <;> rw [Prod.mk.injEq] <;> omega

section Meet

variable {v : BitVec 6} {level : BitVec 2} {m x y i : Nat} {b b' : Bool}

theorem MetaPut.eq_format (h : MetaPut v level m x y b) (hi : i < 15)
    (hxy : (x, y) = formatPosition1 i ∨ (x, y) = formatPosition2 (side v) i) : b = (formatInfo (levelBits level) m).testBit i := by
  have hs := side_ge v
  rw [formatPosition1_iff, formatPosition2_iff] at hxy
  cases h with
  | @format j _ _ hj h =>
    rw [formatPosition1_iff, formatPosition2_iff] at h
    rw [show i = j by omega]
  | dark => omega
  | version _ hj h => rw [Prod.mk.injEq, Prod.mk.injEq] at h; omega

theorem MetaPut.eq_version (h : MetaPut v level m x y b) (hv : 7 ≤ v.toNat) (hi : i < 18)
    (hxy : (x, y) = (side v - 11 + i % 3, i / 3) ∨ (x, y) = (i / 3, side v - 11 + i % 3)) : b = (versionInfo v).testBit i := by
  have hs := side_ge v
  cases h with
  | format hj h => exact ((MetaPut.version hv hi hxy).eq_format hj h).symm
  | dark => rw [Prod.mk.injEq, Prod.mk.injEq] at hxy; omega
  | @version j _ _ _ hj h =>
    rw [Prod.mk.injEq, Prod.mk.injEq] at h hxy
    rw [show i = j by omega]

/-- Where meta puts meet they agree. -/
theorem MetaPut.functional (h : MetaPut v level m x y b) (h' : MetaPut v level m x y b') : b = b' := by
  cases h' with
  | format hi hxy => exact h.eq_format hi hxy
  | version hv hi hxy => exact h.eq_version hv hi hxy
  | dark =>
    have hdark : MetaPut v level m 8 (side v - 8) true := .dark
    generalize hy : side v - 8 = y at h hdark
    cases h with
    | format hi hxy => exact (hdark.eq_format hi hxy).symm
    | dark => rfl
    | version hv hi hxy => exact (hdark.eq_version hv hi hxy).symm

end Meet

/-- A module with a meta put has the put's value in GRID_META's grid (45_symbol.md R256). -/
theorem MetaPut.get_drawMeta {v : BitVec 6} {level : BitVec 2} {m x y : Nat} {b : Bool} (h : MetaPut v level m x y b) (hv : IsVersion v)
    (g : Grid) : (g.drawMeta v level m).get x y = ⟨b, true⟩ := by
  have hs := side_le_of_isVersion hv
  obtain ⟨hx, hy⟩ := metaPuts_bound v level m _ ((draws_metaPuts v level m x y b).2 h)
  exact (draws_metaPuts v level m).get_of_rel MetaPut.functional (hx.trans_le hs) (hy.trans_le hs) h

theorem get_drawMeta_of_not {v : BitVec 6} {x y : Nat} (h : ¬ MetaModule v x y) (g : Grid) (level : BitVec 2) (m : Nat) :
    (g.drawMeta v level m).get x y = g.get x y :=
  (draws_metaPuts v level m).get_of_not_rel fun b hb => h ((metaModule_iff level m).2 ⟨b, hb⟩)

/-- Settles O49: the meta puts agree where they meet, so that each module of the meta patterns carries its bit. -/
theorem metaModulesHaveTheirValues : Obligations.MetaModulesHaveTheirValues := by
  intro g v level m hv _
  rw [← levelBits_eq]
  refine ⟨fun i hi => ⟨?_, ?_⟩, MetaPut.dark.get_drawMeta hv g, fun hv7 i hi => ⟨?_, ?_⟩, fun x y h => get_drawMeta_of_not h g level m⟩
  · exact (MetaPut.format hi (.inl rfl)).get_drawMeta hv g
  · exact (MetaPut.format hi (.inr rfl)).get_drawMeta hv g
  · exact (MetaPut.version hv7 hi (.inl rfl)).get_drawMeta hv g
  · exact (MetaPut.version hv7 hi (.inr rfl)).get_drawMeta hv g

end Sys2Proof.Machine

/-! The modules that the structural and the meta drawing use, as disjoint rectangles: which modules are left for the data, and
how many (45_symbol.md R262). -/

namespace Sys2Proof.Machine

open Sys2Proof.Spec

/-! ## Rectangles of modules -/

/-- The w × h modules from (x, y) rightward and downward. -/
structure Rect where
  x : Nat
  y : Nat
  w : Nat
  h : Nat

namespace Rect

/-- Module p lies in the rectangle. -/
abbrev Has (r : Rect) (p : Nat × Nat) : Prop := r.x ≤ p.1 ∧ p.1 < r.x + r.w ∧ r.y ≤ p.2 ∧ p.2 < r.y + r.h

/-- One rectangle ends before the other begins. -/
abbrev Apart (r r' : Rect) : Prop := r.x + r.w ≤ r'.x ∨ r'.x + r'.w ≤ r.x ∨ r.y + r.h ≤ r'.y ∨ r'.y + r'.h ≤ r.y

/-- The modules of the rectangle. -/
def modules (r : Rect) : Finset (Nat × Nat) := Finset.Ico r.x (r.x + r.w) ×ˢ Finset.Ico r.y (r.y + r.h)

theorem mem_modules {r : Rect} {p : Nat × Nat} : p ∈ r.modules ↔ r.Has p := by
  simp only [modules, Finset.mem_product, Finset.mem_Ico, and_assoc]

theorem card_modules (r : Rect) : r.modules.card = r.w * r.h := by simp [modules]

theorem Apart.not_has {r r' : Rect} (h : r.Apart r') {p : Nat × Nat} (hp : r.Has p) : ¬ r'.Has p := by
  unfold Has at *; unfold Apart at h; omega

/-- The modules of rectangles that are pairwise apart are counted rectangle by rectangle. -/
theorem card_filter_has (U : Finset (Nat × Nat)) {rs : List Rect} (hin : ∀ r ∈ rs, r.modules ⊆ U) (hrs : rs.Pairwise Apart) :
    (U.filter fun p => ∃ r ∈ rs, r.Has p).card = (rs.map fun r => r.w * r.h).sum := by
  induction rs with
  | nil => simp
  | cons r rs ih =>
    obtain ⟨hr, hrs⟩ := List.pairwise_cons.1 hrs
    have hsplit : (U.filter fun p => ∃ r' ∈ r :: rs, r'.Has p) = r.modules ∪ U.filter fun p => ∃ r' ∈ rs, r'.Has p := by
      ext p
      rw [Finset.mem_filter, Finset.mem_union, Finset.mem_filter, List.exists_mem_cons_iff, and_or_left, mem_modules,
        and_iff_right_of_imp fun h => hin r List.mem_cons_self (mem_modules.2 h)]
    have hdisj : Disjoint r.modules (U.filter fun p => ∃ r' ∈ rs, r'.Has p) := by
      refine Finset.disjoint_left.2 fun p hp hmem => ?_
      obtain ⟨-, r', hr', hp'⟩ := Finset.mem_filter.1 hmem
      exact (hr r' hr').not_has (mem_modules.1 hp) hp'
    rw [hsplit, Finset.card_union_of_disjoint hdisj, card_modules, ih (fun r' h => hin r' (List.mem_cons_of_mem _ h)) hrs, List.map_cons,
      List.sum_cons]

end Rect

/-! ## The modules of the patterns -/

/-- An alignment pattern without the row or column that it shares with a timing strip (45_symbol.md R245, R246). -/
def alignmentRects (c : Nat × Nat) : List Rect :=
  if c.1 = 6 then [⟨4, c.2 - 2, 2, 5⟩, ⟨7, c.2 - 2, 2, 5⟩]
  else if c.2 = 6 then [⟨c.1 - 2, 4, 5, 2⟩, ⟨c.1 - 2, 7, 5, 2⟩]
  else [⟨c.1 - 2, c.2 - 2, 5, 5⟩]

/-- The corners with the format info around them, and the timing strips between (45_symbol.md R243, R244, R246, R252, R255). -/
def frameRects (s : Nat) : List Rect :=
  [⟨0, 0, 9, 9⟩, ⟨s - 8, 0, 8, 9⟩, ⟨0, s - 8, 9, 8⟩, ⟨9, 6, s - 17, 1⟩, ⟨6, 9, 1, s - 17⟩]

/-- The blocks of version info (45_symbol.md R254). -/
def versionRects (v : BitVec 6) : List Rect := if 7 ≤ v.toNat then [⟨side v - 11, 0, 3, 6⟩, ⟨0, side v - 11, 6, 3⟩] else []

/-- The modules of all patterns of version v. -/
def patternRects (v : BitVec 6) : List Rect :=
  frameRects (side v) ++ (alignmentCentres v).flatMap alignmentRects ++ versionRects v

/-- No module lies in two of the rectangles. -/
theorem patternRects_apart : ∀ v : BitVec 6, 1 ≤ v.toNat → v.toNat ≤ 40 → (patternRects v).Pairwise Rect.Apart := by decide +kernel

/-- The rectangles lie in the symbol. -/
theorem patternRects_bound : ∀ v : BitVec 6, ∀ r ∈ patternRects v, r.x + r.w ≤ side v ∧ r.y + r.h ≤ side v := by
  decide +kernel

/-- DM(v) is what the rectangles leave of the symbol, by R262's table. -/
theorem patternRects_area : ∀ v : BitVec 6, 1 ≤ v.toNat → v.toNat ≤ 40 →
    ((patternRects v).map fun r => r.w * r.h).sum + dataModules v = side v * side v := by decide +kernel

/-! ## Which modules the patterns use -/

/-- The modules around the corners and on the two timing strips (45_symbol.md R243, R244, R246, R252, R255). -/
def OnFrame (s x y : Nat) : Prop := x < s ∧ y < s ∧ (x < 9 ∧ y < 9 ∨ s ≤ x + 8 ∧ y < 9 ∨ x < 9 ∧ s ≤ y + 8 ∨ x = 6 ∨ y = 6)

/-- The modules of the alignment patterns (45_symbol.md R245). -/
def OnAlignment (v : BitVec 6) (x y : Nat) : Prop := ∃ cx cy, AlignmentCentre v cx cy ∧ gap x cx ≤ 2 ∧ gap y cy ≤ 2

/-- The modules of the two blocks of version info (45_symbol.md R254). -/
def OnVersionInfo (v : BitVec 6) (x y : Nat) : Prop :=
  7 ≤ v.toNat ∧ (side v ≤ x + 11 ∧ x + 8 < side v ∧ y < 6 ∨ side v ≤ y + 11 ∧ y + 8 < side v ∧ x < 6)

section

variable {v : BitVec 6} {s x y : Nat}

/-- The two copies of the format info run along the corners (45_symbol.md R252). -/
theorem exists_formatPosition_iff (hs : 21 ≤ s) : (∃ i, i < 15 ∧ ((x, y) = formatPosition1 i ∨ (x, y) = formatPosition2 s i)) ↔
    x = 8 ∧ (y ≤ 8 ∧ y ≠ 6 ∨ s ≤ y + 7 ∧ y < s) ∨ y = 8 ∧ (x ≤ 7 ∧ x ≠ 6 ∨ s ≤ x + 8 ∧ x < s) := by
  simp only [formatPosition1_iff, formatPosition2_iff]
  constructor
  · rintro ⟨i, hi, h⟩; omega
  · rintro (⟨rfl, h | h⟩ | ⟨rfl, h | h⟩)
    · exact ⟨y - y / 7, by omega⟩
    · exact ⟨y + 15 - s, by omega⟩
    · exact ⟨14 - x + x / 7, by omega⟩
    · exact ⟨s - 1 - x, by omega⟩

theorem onVersionInfo_iff : OnVersionInfo v x y ↔
    7 ≤ v.toNat ∧ ∃ i, i < 18 ∧ ((x, y) = (side v - 11 + i % 3, i / 3) ∨ (x, y) = (i / 3, side v - 11 + i % 3)) := by
  have hs := side_ge v
  refine and_congr_right fun _ => ?_
  simp only [Prod.mk.injEq]
  constructor
  · rintro (h | h)
    · exact ⟨3 * y + (x + 11 - side v), by omega⟩
    · exact ⟨3 * x + (y + 11 - side v), by omega⟩
  · rintro ⟨i, hi, h⟩; omega

/-- The modules that the structural and the meta drawing write. -/
theorem pattern_iff : StructuralModule v x y ∨ MetaModule v x y ↔ OnFrame (side v) x y ∨ OnAlignment v x y ∨ OnVersionInfo v x y := by
  have hs := side_ge v
  have hcorner := inCorner_iff (x := x) (y := y) hs
  unfold StructuralModule MetaModule
  rw [sideOf_eq_side, ← onVersionInfo_iff, exists_formatPosition_iff hs, ← or_assoc (c := _ ∨ _ ∨ _), ← hcorner]
  unfold InCorner OnFrame OnAlignment
  constructor
  · rintro ((h | h | h | h) | h | h | h)
    · exact .inl (by omega)
    · exact .inr (.inl h)
    · exact .inl (by omega)
    · exact .inl (by omega)
    · exact .inl (by omega)
    · exact .inl (by omega)
    · exact .inr (.inr h)
  · rintro (h | h | h)
    · omega
    · exact .inl (.inr (.inl h))
    · exact .inr (.inr (.inr h))

/-- The rectangles of one alignment pattern leave out what a timing strip holds. -/
theorem exists_alignmentRects_iff {cx cy : Nat} (hc : AlignmentCentre v cx cy) : (∃ r ∈ alignmentRects (cx, cy), r.Has (x, y)) ↔
    gap x cx ≤ 2 ∧ gap y cy ≤ 2 ∧ ¬ (cx = 6 ∧ x = 6) ∧ ¬ (cy = 6 ∧ y = 6) := by
  obtain ⟨hx, hy, h66, -⟩ := hc
  have hx' := alignAt_apart v cx hx
  have hy' := alignAt_apart v cy hy
  have hs := side_ge v
  unfold alignmentRects gap
  split_ifs <;> simp only [List.exists_mem_cons_iff, List.not_mem_nil, false_and, exists_false, or_false, Rect.Has] <;> omega

theorem exists_frameRects_iff (hs : 21 ≤ s) : (∃ r ∈ frameRects s, r.Has (x, y)) ↔ OnFrame s x y := by
  simp only [frameRects, List.exists_mem_cons_iff, List.not_mem_nil, false_and, exists_false, or_false, Rect.Has, OnFrame]
  omega

theorem exists_versionRects_iff : (∃ r ∈ versionRects v, r.Has (x, y)) ↔ OnVersionInfo v x y := by
  have hs := side_ge v
  unfold versionRects OnVersionInfo
  split_ifs with hv
  · simp only [List.exists_mem_cons_iff, List.not_mem_nil, false_and, exists_false, or_false, Rect.Has]; omega
  · simp [hv]

/-- The rectangles hold the modules of the patterns. -/
theorem exists_patternRects_iff :
    (∃ r ∈ patternRects v, r.Has (x, y)) ↔ OnFrame (side v) x y ∨ OnAlignment v x y ∨ OnVersionInfo v x y := by
  have hs := side_ge v
  simp only [patternRects, List.mem_append, or_and_right, exists_or, exists_frameRects_iff hs, exists_versionRects_iff, or_assoc]
  constructor
  · rintro (h | ⟨r, hr, hxy⟩ | h)
    · exact .inl h
    · obtain ⟨⟨cx, cy⟩, hc, hr⟩ := List.mem_flatMap.1 hr
      have hc := mem_alignmentCentres_iff.1 hc
      obtain ⟨hx, hy, -⟩ := (exists_alignmentRects_iff hc).1 ⟨r, hr, hxy⟩
      exact .inr (.inl ⟨cx, cy, hc, hx, hy⟩)
    · exact .inr (.inr h)
  · rintro (h | ⟨cx, cy, hc, hx, hy⟩ | h)
    · exact .inl h
    · by_cases hstrip : x = 6 ∨ y = 6
      · obtain ⟨hcx, hcy, -⟩ := hc
        have hbx := alignAt_bound v cx hcx
        have hby := alignAt_bound v cy hcy
        unfold gap at hx hy
        exact .inl ⟨by omega, by omega, .inr (.inr (.inr hstrip))⟩
      · obtain ⟨r, hr, hxy⟩ := (exists_alignmentRects_iff hc).2 ⟨hx, hy, by omega, by omega⟩
        exact .inr (.inl ⟨r, List.mem_flatMap.2 ⟨_, mem_alignmentCentres_iff.2 hc, hr⟩, hxy⟩)
    · exact .inr (.inr h)

end

/-! ## The modules left for the data -/

section

variable {v : BitVec 6} {x y : Nat} (level : BitVec 2) (m : Nat)

/-- After the structural and the meta drawing exactly the modules of the patterns are used (45_symbol.md R262). -/
theorem used_patterns_iff (hv : IsVersion v) :
    (((structGrid v).drawMeta v level m).get x y).used = true ↔ ∃ r ∈ patternRects v, r.Has (x, y) := by
  rw [exists_patternRects_iff, ← pattern_iff]
  by_cases hmeta : MetaModule v x y
  · obtain ⟨b, hb⟩ := (metaModule_iff level m).1 hmeta
    simp [hb.get_drawMeta hv, hmeta]
  · rw [get_drawMeta_of_not hmeta]
    by_cases hstruct : StructuralModule v x y
    · obtain ⟨b, hb⟩ := structuralModule_iff.1 hstruct
      simp [hb.get_structGrid hv, hstruct]
    · simp [get_structGrid_of_not hstruct, hmeta, hstruct, Module.blank]

/-- The patterns use all of column 6 (45_symbol.md R246). -/
theorem used_patterns_column6 (hv : IsVersion v) (hy : y < side v) :
    (((structGrid v).drawMeta v level m).get 6 y).used = true := by
  have hs := side_ge v
  exact (used_patterns_iff level m hv).2 (exists_patternRects_iff.2 (.inl ⟨by omega, hy, by omega⟩))

/-- The patterns' modules and the data modules fill the symbol (45_symbol.md R262). -/
theorem unusedIn_patterns (hv : IsVersion v) : unusedIn ((structGrid v).drawMeta v level m) (side v) = dataModules v := by
  have hin : ∀ r ∈ patternRects v, r.modules ⊆ Finset.range (side v) ×ˢ Finset.range (side v) := fun r hr p hp => by
    obtain ⟨hx, hy⟩ := patternRects_bound v r hr
    obtain ⟨-, hpx, -, hpy⟩ := Rect.mem_modules.1 hp
    exact Finset.mem_product.2 ⟨Finset.mem_range.2 (hpx.trans_le hx), Finset.mem_range.2 (hpy.trans_le hy)⟩
  have hused := Rect.card_filter_has _ hin (patternRects_apart v hv.1 hv.2)
  have harea := patternRects_area v hv.1 hv.2
  have hall := Finset.card_filter_add_card_filter_not (s := Finset.range (side v) ×ˢ Finset.range (side v))
    fun p => ∃ r ∈ patternRects v, r.Has p
  have hunused : unusedIn ((structGrid v).drawMeta v level m) (side v) =
      ((Finset.range (side v) ×ˢ Finset.range (side v)).filter fun p => ¬ ∃ r ∈ patternRects v, r.Has p).card := by
    simp only [unusedIn, ← used_patterns_iff level m hv, Bool.not_eq_true]
  rw [Finset.card_product, Finset.card_range] at hall
  omega

end

/-- Settles O51: the patterns' rectangles are pairwise apart, and their areas add up to what DM(v) leaves of the symbol. -/
theorem dataModuleCounts : Obligations.DataModuleCounts := fun _ level m hv _ => unusedIn_patterns level m hv

end Sys2Proof.Machine

/-! The placement order: the places of the zig-zag, visited from the first to the last (45_symbol.md R258), and what GRID_DATA and
GRID_BUILD draw along it. -/

namespace Sys2Proof.Machine

open Sys2Proof.Spec

/-! ## The zig-zag -/

/-- Every position of the column pairs, in the order they are visited (45_symbol.md R258). -/
def zigzag (s : Nat) : List (Nat × Nat) := (List.range ((s - 1) / 2)).flatMap (pairPositions s)

theorem placementOrder_eq_filter (g : Grid) (s : Nat) : g.placementOrder s = (zigzag s).filter fun p => !(g.get p.1 p.2).used := rfl

/-- The right column of pair k: pairs from column 6 on are one column further left (45_symbol.md R258). -/
def rightColumn (s k : Nat) : Nat := if s - 1 - 2 * k ≤ 6 then s - 2 - 2 * k else s - 1 - 2 * k

/-- The t-th row that pair k visits, upward in an even pair (45_symbol.md R258). -/
def visitedRow (s k t : Nat) : Nat := if k % 2 = 0 then s - 1 - t else t

theorem pairPositions_eq (s k : Nat) : pairPositions s k =
    (List.range s).flatMap fun t => [(rightColumn s k, visitedRow s k t), (rightColumn s k - 1, visitedRow s k t)] := by
  have hcol : (if s - 1 - 2 * k ≤ 6 then s - 1 - 2 * k - 1 else s - 1 - 2 * k) = rightColumn s k := by
    unfold rightColumn; split_ifs <;> omega
  simp only [pairPositions, hcol, visitedRow]

section

variable {s k t : Nat}

theorem rowPlace_visitedRow (ht : t < s) : (if k % 2 = 0 then s - 1 - visitedRow s k t else visitedRow s k t) = t := by
  unfold visitedRow; split_ifs <;> omega

/-- The right column of pair k has the even place of its row. -/
theorem zigzagPlace_right (hodd : s % 2 = 1) (hk : k < (s - 1) / 2) (ht : t < s) :
    zigzagPlace s (rightColumn s k, visitedRow s k t) = 2 * (k * s + t) := by
  have hpair : pairOf s (rightColumn s k) = k := by unfold pairOf rightColumn; split_ifs <;> omega
  have hcol : (if 6 < rightColumn s k then (s - 1 - rightColumn s k) % 2 else (s - 2 - rightColumn s k) % 2) = 0 := by
    unfold rightColumn; split_ifs <;> omega
  simp only [zigzagPlace, hpair, rowPlace_visitedRow ht, hcol, Nat.add_zero]

/-- The left column of pair k has the odd place of its row. -/
theorem zigzagPlace_left (hodd : s % 2 = 1) (hk : k < (s - 1) / 2) (ht : t < s) :
    zigzagPlace s (rightColumn s k - 1, visitedRow s k t) = 2 * (k * s + t) + 1 := by
  have hpair : pairOf s (rightColumn s k - 1) = k := by unfold pairOf rightColumn; split_ifs <;> omega
  have hcol : (if 6 < rightColumn s k - 1 then (s - 1 - (rightColumn s k - 1)) % 2 else (s - 2 - (rightColumn s k - 1)) % 2) = 1 := by
    unfold rightColumn; split_ifs <;> omega
  simp only [zigzagPlace, hpair, rowPlace_visitedRow ht, hcol]

/-- The places of a list's positions rise. -/
abbrev PlacesRise (s : Nat) (l : List (Nat × Nat)) : Prop := l.Pairwise fun p q => zigzagPlace s p < zigzagPlace s q

theorem placesRise_pairPositions (hodd : s % 2 = 1) (hk : k < (s - 1) / 2) : PlacesRise s (pairPositions s k) := by
  rw [pairPositions_eq, PlacesRise, List.pairwise_flatMap]
  refine ⟨fun t ht => ?_, List.pairwise_lt_range.imp_of_mem fun {t u} ht hu htu p hp q hq => ?_⟩
  · rw [List.pairwise_pair, zigzagPlace_right hodd hk (List.mem_range.1 ht), zigzagPlace_left hodd hk (List.mem_range.1 ht)]
    omega
  · simp only [List.mem_cons, List.not_mem_nil, or_false] at hp hq
    obtain rfl | rfl := hp <;> obtain rfl | rfl := hq <;>
      simp only [zigzagPlace_right hodd hk, zigzagPlace_left hodd hk, List.mem_range.1 ht, List.mem_range.1 hu] <;> omega

/-- The places of pair k are the 2 s places after those of the pairs before it. -/
theorem zigzagPlace_bounds (hodd : s % 2 = 1) (hk : k < (s - 1) / 2) {p : Nat × Nat} (hp : p ∈ pairPositions s k) :
    2 * (k * s) ≤ zigzagPlace s p ∧ zigzagPlace s p < 2 * ((k + 1) * s) := by
  rw [pairPositions_eq, List.mem_flatMap] at hp
  obtain ⟨t, ht, hp⟩ := hp
  have ht := List.mem_range.1 ht
  simp only [List.mem_cons, List.not_mem_nil, or_false] at hp
  rw [Nat.add_one_mul k s]
  obtain rfl | rfl := hp
  · rw [zigzagPlace_right hodd hk ht]; omega
  · rw [zigzagPlace_left hodd hk ht]; omega

theorem placesRise_zigzag (hodd : s % 2 = 1) : PlacesRise s (zigzag s) := by
  rw [zigzag, PlacesRise, List.pairwise_flatMap]
  refine ⟨fun k hk => placesRise_pairPositions hodd (List.mem_range.1 hk),
    List.pairwise_lt_range.imp_of_mem fun {j k} hj hk hjk p hp q hq => ?_⟩
  calc zigzagPlace s p < 2 * ((j + 1) * s) := (zigzagPlace_bounds hodd (List.mem_range.1 hj) hp).2
    _ ≤ 2 * (k * s) := Nat.mul_le_mul_left 2 (Nat.mul_le_mul_right s hjk)
    _ ≤ zigzagPlace s q := (zigzagPlace_bounds hodd (List.mem_range.1 hk) hq).1

/-- The column pairs hold every module of the symbol outside column 6 (45_symbol.md R258). -/
theorem mem_zigzag (hs : 9 ≤ s) (hodd : s % 2 = 1) {x y : Nat} : (x, y) ∈ zigzag s ↔ x < s ∧ y < s ∧ x ≠ 6 := by
  simp only [zigzag, pairPositions_eq, List.mem_flatMap, List.mem_range, List.mem_cons, List.not_mem_nil, or_false, Prod.mk.injEq]
  constructor
  · rintro ⟨k, hk, t, ht, h⟩
    unfold rightColumn visitedRow at h
    split_ifs at h <;> omega
  · rintro ⟨hx, hy, h6⟩
    have hrow : y = visitedRow s (pairOf s x) (visitedRow s (pairOf s x) y) := by unfold visitedRow; split_ifs <;> omega
    refine ⟨pairOf s x, by unfold pairOf; split_ifs <;> omega, visitedRow s (pairOf s x) y, by unfold visitedRow; split_ifs <;> omega, ?_⟩
    rw [← or_and_right]
    exact ⟨by unfold pairOf rightColumn; split_ifs <;> omega, hrow⟩

end

/-! ## The placement order -/

theorem side_odd (v : BitVec 6) : side v % 2 = 1 := by unfold side; omega

theorem placesRise_placementOrder (g : Grid) (v : BitVec 6) : PlacesRise (side v) (g.placementOrder (side v)) :=
  (placesRise_zigzag (side_odd v)).filter _

theorem nodup_placementOrder (g : Grid) (v : BitVec 6) : (g.placementOrder (side v)).Nodup :=
  (placesRise_placementOrder g v).imp fun hlt heq => hlt.ne (congrArg _ heq)

theorem mem_placementOrder_iff {g : Grid} {v : BitVec 6} {x y : Nat} : (x, y) ∈ g.placementOrder (side v) ↔
    x < side v ∧ y < side v ∧ x ≠ 6 ∧ (g.get x y).used = false := by
  rw [placementOrder_eq_filter, List.mem_filter, mem_zigzag (by have := side_ge v; omega) (side_odd v), Bool.not_eq_true', and_assoc,
    and_assoc]

/-- Over the patterns the order does not depend on level and mask: the patterns' modules do not. -/
theorem placementOrder_patterns {v : BitVec 6} (level : BitVec 2) (m : Nat) (hv : IsVersion v) :
    ((structGrid v).drawMeta v level m).placementOrder (side v) =
      (zigzag (side v)).filter fun p => !(patternRects v).any fun r => r.Has p := by
  rw [placementOrder_eq_filter]
  refine List.filter_congr fun p _ => congrArg _ ?_
  rw [Bool.eq_iff_iff, used_patterns_iff level m hv]
  simp

/-- The order over the patterns of version 1. -/
theorem order_version1_ends : let order := (zigzag 21).filter fun p => !(patternRects 1).any fun r => r.Has p
    order.take 4 = [(20, 20), (19, 20), (20, 19), (19, 19)] ∧ order.drop 204 = [(1, 11), (0, 11), (1, 12), (0, 12)] := by
  decide +kernel

/-- Settles O52: the places of the zig-zag rise along the order, and a filter keeps that. -/
theorem placementVisitsEachUnusedModuleOnce : Obligations.PlacementVisitsEachUnusedModuleOnce := by
  refine ⟨fun g v _ => ⟨nodup_placementOrder g v, placesRise_placementOrder g v, fun x y => mem_placementOrder_iff⟩, fun level m _ => ?_⟩
  have horder := placementOrder_patterns (v := 1) level m ⟨by decide, by decide⟩
  exact horder ▸ order_version1_ends

/-! ## Data -/

theorem unusedIn_eq_zero_iff {g : Grid} {s : Nat} : unusedIn g s = 0 ↔ ∀ x y, x < s → y < s → (g.get x y).used = true := by
  rw [unusedIn, ← Grid.empty_eq_card, Grid.empty_eq_zero]

section

variable {v : BitVec 6} {g : Grid} {m : Nat}

/-- The visited modules are unused modules of the symbol, each visited once (45_symbol.md R260). -/
theorem length_placementOrder_le : (g.placementOrder (side v)).length ≤ unusedIn g (side v) := by
  rw [← List.toFinset_card_of_nodup (nodup_placementOrder g v)]
  refine Finset.card_le_card fun p hp => ?_
  obtain ⟨hx, hy, -, hu⟩ := mem_placementOrder_iff.1 (List.mem_toFinset.1 hp)
  exact Finset.mem_filter.2 ⟨Finset.mem_product.2 ⟨Finset.mem_range.2 hx, Finset.mem_range.2 hy⟩, hu⟩

/-- A module off the order stays as it is (45_symbol.md R261). -/
theorem get_drawData_of_not_mem {bits : List Bool} {x y : Nat} (h : (x, y) ∉ g.placementOrder (side v)) :
    (g.drawData (side v) m bits).get x y = g.get x y :=
  Grid.get_draw_of_not_mem _ _ fun p hp ⟨hx, hy⟩ => h (by rw [hx, hy]; exact mem_dataPuts hp)

variable {r : BitRam} (hv : IsVersion v) (hlen : r.len.toNat = unusedIn g (side v))

include hv hlen

/-- Module n of the order takes bit n of a stream as long as EMPTY, inverted where the mask is on (45_symbol.md R259, R261). -/
theorem get_drawData {n : Nat} {p : Nat × Nat} (hp : (g.placementOrder (side v))[n]? = some p) :
    (g.drawData (side v) m r.bits).get p.1 p.2 = ⟨r.bit n ^^ maskOn m p.1 p.2, true⟩ := by
  have hs := side_le_of_isVersion hv
  obtain ⟨hn, -⟩ := List.getElem?_eq_some_iff.1 hp
  refine Grid.get_drawData_of_nodup g m r.bits (nodup_placementOrder g v) (fun q hq => ?_) hp
    (r.getElem?_bits n (hlen ▸ hn.trans_le length_placementOrder_le))
  obtain ⟨hx, hy, -⟩ := mem_placementOrder_iff.1 hq
  exact ⟨hx.trans_le hs, hy.trans_le hs⟩

/-- The data fills the symbol if column 6 is used before, which the order leaves out (45_symbol.md R261, log 20). -/
theorem used_drawData (h6 : ∀ y, y < side v → (g.get 6 y).used = true) {x y : Nat} (hx : x < side v) (hy : y < side v) :
    ((g.drawData (side v) m r.bits).get x y).used = true := by
  by_cases hu : (g.get x y).used = true
  · exact Grid.used_draw_of_used g _ hu
  · have hmem : (x, y) ∈ g.placementOrder (side v) :=
      mem_placementOrder_iff.2 ⟨hx, hy, fun h => hu (h ▸ h6 y hy), Bool.not_eq_true _ ▸ hu⟩
    obtain ⟨n, hn⟩ := List.mem_iff_getElem?.1 hmem
    rw [get_drawData hv hlen hn]

theorem unusedIn_drawData (h6 : ∀ y, y < side v → (g.get 6 y).used = true) :
    unusedIn (g.drawData (side v) m r.bits) (side v) = 0 :=
  unusedIn_eq_zero_iff.2 fun _ _ => used_drawData hv hlen h6

end

/-- The mask conditions of R257, x the column and y the row. -/
theorem maskOn_iff (x y : Nat) :
    (maskOn 0 x y = true ↔ (y + x) % 2 = 0) ∧ (maskOn 1 x y = true ↔ y % 2 = 0) ∧ (maskOn 2 x y = true ↔ x % 3 = 0) ∧
    (maskOn 3 x y = true ↔ (y + x) % 3 = 0) ∧ (maskOn 4 x y = true ↔ (y / 2 + x / 3) % 2 = 0) ∧
    (maskOn 5 x y = true ↔ (y * x) % 2 + (y * x) % 3 = 0) ∧ (maskOn 6 x y = true ↔ ((y * x) % 2 + (y * x) % 3) % 2 = 0) ∧
    (maskOn 7 x y = true ↔ ((y + x) % 2 + (y * x) % 3) % 2 = 0) :=
  ⟨decide_eq_true_iff, decide_eq_true_iff, decide_eq_true_iff, decide_eq_true_iff, decide_eq_true_iff, decide_eq_true_iff,
    decide_eq_true_iff, decide_eq_true_iff⟩

/-- Settles O53: the checks in order, and the stream along the placement order. -/
theorem gridDataPlacesTheStream : Obligations.GridDataPlacesTheStream := by
  refine ⟨maskOn_iff, fun m => decode_eq_ok_iff_encode_eq.2 (toWord_immediate1 0x43 m),
    fun _ => raisesIllegal_of_reserved (.gridData 0) rfl rfl, fun m s w hw =>
    ⟨fun hm => ?_, fun hm hv => ?_, fun hm hv hlen => ?_, fun hm hv h40 hlen => ?_⟩⟩
  · exact (exec_gridData_of_mask hm).trans (trap_eq_faulted hw .badMask)
  · exact (exec_gridData_of_noGrid hm hv).trans (trap_eq_faulted hw .noGrid)
  · exact (exec_gridData_of_capacity hm hv hlen).trans (trap_eq_faulted hw .capacity)
  · have hver := isVersion_of_ne_zero hv h40
    have hbits := hlen.trans (unusedModules_of_ne_zero hv)
    exact ⟨_, (exec_gridData hm hv hlen).trans (finish_setGrid s _), fun n p => get_drawData hver hbits,
      fun x y => get_drawData_of_not_mem, fun h6 => (unusedModules_setGrid hv _).trans (unusedIn_drawData hver hbits h6)⟩

/-- Settles O54: over the patterns EMPTY is DM(VERSION) and column 6 is used, so that the data fills the symbol. -/
theorem gridBuildBuildsTheWholeSymbol : Obligations.GridBuildBuildsTheWholeSymbol := by
  refine ⟨fun m => decode_eq_ok_iff_encode_eq.2 (toWord_immediate1 0x44 m),
    fun _ => raisesIllegal_of_reserved (.gridBuild 0) rfl rfl, fun m s w hw =>
    ⟨fun hm => ?_, fun hm hv => ?_, fun hm hv hlen => ?_, fun hm hv hlen => ?_⟩⟩
  · exact (exec_gridBuild_of_mask hm).trans (trap_eq_faulted hw .badMask)
  · exact (exec_gridBuild_of_not_version hm hv).trans (trap_eq_faulted hw .badConfig)
  · exact (exec_gridBuild_of_capacity hm hv hlen).trans (trap_eq_faulted hw .capacity)
  · have hbits := hlen.trans (unusedIn_patterns s.level m.toNat hv).symm
    have h6 (y : Nat) (hy : y < side s.version) := used_patterns_column6 s.level m.toNat hv hy
    exact ⟨_, (exec_gridBuild hm hv hlen).trans (finish_newGrid s _ _), rfl, rfl, fun n p => get_drawData hv hbits,
      fun x y => get_drawData_of_not_mem, fun x y => used_drawData hv hbits h6,
      (unusedModules_newGrid s (ne_zero_of_isVersion hv) _).trans (unusedIn_drawData hv hbits h6)⟩

end Sys2Proof.Machine

/-! Rule 1 of the mask evaluator: the model's runs of a line are its maximal intervals of equal modules (46_mask.md R280). -/

namespace Sys2Proof.Machine

open Sys2Proof.Spec

/-! ## Rule 1 -/

/-- What the maximal runs from place i of a line on add (46_mask.md R280). -/
def runPenaltyAt (line : List Bool) (i : Nat) : Nat :=
  ((List.range (line.length + 1)).map fun l => if maximalRun line i l = true ∧ 5 ≤ l then 3 + (l - 5) else 0).sum

theorem runPenaltySum_eq (line : List Bool) : runPenaltySum line = ((List.range line.length).map (runPenaltyAt line)).sum := rfl

theorem maximalRun_iff {line : List Bool} {i l : Nat} : maximalRun line i l = true ↔
    0 < l ∧ i + l ≤ line.length ∧ (∀ k < l, line.getD (i + k) false = line.getD i false) ∧
      (i = 0 ∨ line.getD (i - 1) false ≠ line.getD i false) ∧ (i + l = line.length ∨ line.getD (i + l) false ≠ line.getD i false) := by
  simp [maximalRun, and_assoc]

/-- How many modules of value c a line begins with. -/
def runAhead (c : Bool) (line : List Bool) : Nat := line.findIdx (· != c)

@[simp] theorem runAhead_nil (c : Bool) : runAhead c [] = 0 := rfl

@[simp] theorem runAhead_cons_self (c : Bool) (line : List Bool) : runAhead c (c :: line) = runAhead c line + 1 := by
  simp [runAhead, List.findIdx_cons]

theorem runAhead_cons_of_ne {b c : Bool} (h : b ≠ c) (line : List Bool) : runAhead c (b :: line) = 0 := by
  rw [runAhead, List.findIdx_cons, bne_iff_ne.2 h, cond_true]

theorem eq_runAhead_iff {c : Bool} {line : List Bool} {l : Nat} : l = runAhead c line ↔
    l ≤ line.length ∧ (∀ k < l, line.getD k false = c) ∧ (l = line.length ∨ line.getD l false ≠ c) := by
  induction line generalizing l with
  | nil => simp +contextual
  | cons b bs ih =>
    obtain rfl | hb := eq_or_ne b c <;> cases l
    case inl.zero => simp
    case inl.succ l => simp only [Nat.forall_lt_succ_left, runAhead_cons_self, Nat.add_right_cancel_iff, ih]; simp
    case inr.zero => simp [runAhead_cons_of_ne hb, hb]
    case inr.succ l => simp only [Nat.forall_lt_succ_left, runAhead_cons_of_ne hb]; simp [hb]

/-- The one maximal run from the start of a line on. -/
theorem maximalRun_zero_iff {b : Bool} {bs : List Bool} {l : Nat} : maximalRun (b :: bs) 0 l = true ↔ l = runAhead b bs + 1 := by
  cases l with
  | zero => simp [maximalRun_iff]
  | succ l =>
    rw [maximalRun_iff, Nat.add_right_cancel_iff, eq_runAhead_iff]
    simp only [Nat.forall_lt_succ_left]
    simp

/-- A further module in front of a line keeps its maximal runs, but for one that it goes on with. -/
theorem maximalRun_cons_succ {b : Bool} {bs : List Bool} {i l : Nat} :
    maximalRun (b :: bs) (i + 1) l = true ↔ maximalRun bs i l = true ∧ (i = 0 → b ≠ bs.getD 0 false) := by
  have hidx (k : Nat) : i + 1 + k = i + k + 1 := Nat.add_right_comm i 1 k
  simp only [maximalRun_iff, hidx, List.getD_cons_succ, List.length_cons, Nat.add_right_cancel_iff, Nat.add_le_add_iff_right]
  cases i with
  | zero => simp; tauto
  | succ i => simp

/-- Of the lengths tried at the start of a line only that of its first run adds something. -/
theorem runPenaltyAt_zero (b : Bool) (bs : List Bool) : runPenaltyAt (b :: bs) 0 = runPenalty (runAhead b bs + 1) := by
  have hone (l : Nat) (hl : l ≠ runAhead b bs + 1) : (if maximalRun (b :: bs) 0 l = true ∧ 5 ≤ l then 3 + (l - 5) else 0) = 0 :=
    if_neg fun h => hl (maximalRun_zero_iff.1 h.1)
  have hlen : runAhead b bs ≤ bs.length := List.findIdx_le_length
  refine (List.sum_map_eq_nsmul_single (runAhead b bs + 1) _ fun l hl _ => hone l hl).trans ?_
  rw [List.count_eq_one_of_mem List.nodup_range (List.mem_range.2 (by rw [List.length_cons]; omega)), one_nsmul]
  simp [maximalRun_zero_iff, runPenalty]

theorem runPenaltyAt_succ {b : Bool} {bs : List Bool} {i : Nat} (h : i = 0 → b ≠ bs.getD 0 false) :
    runPenaltyAt (b :: bs) (i + 1) = runPenaltyAt bs i := by
  have hlast : maximalRun bs i (bs.length + 1) = false := Bool.eq_false_iff.2 fun hrun => by
    have := (maximalRun_iff.1 hrun).2.1; omega
  have hruns : maximalRun (b :: bs) (i + 1) = maximalRun bs i := funext fun l => by
    rw [Bool.eq_iff_iff, maximalRun_cons_succ, and_iff_left h]
  rw [runPenaltyAt, List.length_cons, List.range_succ, List.map_append, List.sum_append, hruns]
  simp [runPenaltyAt, hlast]

theorem runPenaltyAt_one_of_same (b : Bool) (bs : List Bool) : runPenaltyAt (b :: b :: bs) 1 = 0 :=
  List.sum_eq_zero fun x hx => by
    obtain ⟨l, -, rfl⟩ := List.mem_map.1 hx
    exact if_neg fun h => (maximalRun_cons_succ.1 h.1).2 rfl rfl

/-- A further module in front of a line lengthens its first run or is a run of its own. -/
theorem runPenaltySum_cons (b : Bool) (bs : List Bool) :
    runPenaltySum (b :: bs) + runPenalty (runAhead b bs) = runPenalty (runAhead b bs + 1) + runPenaltySum bs := by
  have hcons : runPenaltySum (b :: bs) =
      runPenalty (runAhead b bs + 1) + ((List.range bs.length).map fun i => runPenaltyAt (b :: bs) (i + 1)).sum := by
    rw [runPenaltySum_eq, List.length_cons, List.sum_range_succ', runPenaltyAt_zero]
  rw [hcons]
  cases bs with
  | nil => rfl
  | cons d ds =>
    have htail (i : Nat) : runPenaltyAt (b :: d :: ds) (i + 1 + 1) = runPenaltyAt (d :: ds) (i + 1) :=
      runPenaltyAt_succ fun h => absurd h i.succ_ne_zero
    rw [runPenaltySum_eq, List.length_cons, List.sum_range_succ', List.sum_range_succ']
    simp only [Nat.succ_eq_add_one, htail, Nat.zero_add]
    obtain rfl | hb := eq_or_ne d b
    · rw [runPenaltyAt_one_of_same, runPenaltyAt_zero, runAhead_cons_self]
      omega
    · rw [runPenaltyAt_succ fun _ => hb.symm, runAhead_cons_of_ne hb]
      simp [runPenalty]

/-- The model's runs of a line after n modules of value c: the first of them goes on with the line's modules of value c. -/
theorem sum_runsAfter (c : Bool) (n : Nat) (line : List Bool) :
    ((runsAfter c n line).map runPenalty).sum + runPenalty (runAhead c line) = runPenalty (runAhead c line + n) + runPenaltySum line := by
  induction line generalizing c n with
  | nil => simp [runsAfter, runPenaltySum, runPenalty]
  | cons b bs ih =>
    rw [runsAfter]
    obtain rfl | hb := eq_or_ne b c
    · have hrest := ih b (n + 1)
      have hcons := runPenaltySum_cons b bs
      rw [if_pos rfl, runAhead_cons_self, Nat.add_assoc, Nat.add_comm 1 n]
      omega
    · have hrest := ih b 1
      have hcons := runPenaltySum_cons b bs
      rw [if_neg hb, runAhead_cons_of_ne hb, List.map_cons, List.sum_cons, Nat.zero_add, show runPenalty 0 = 0 from rfl]
      omega

theorem linePenalty1_eq (line : List Bool) : linePenalty1 line = runPenaltySum line := by
  cases line with
  | nil => rfl
  | cons b bs =>
    have hruns := sum_runsAfter b 1 bs
    have hcons := runPenaltySum_cons b bs
    rw [linePenalty1, runLengths]
    omega

/-- A sum over the lines of a symbol: its rows, then its columns (46_mask.md R280). -/
theorem Grid.sum_lines (g : Grid) (s : Nat) (f : List Bool → Nat) : ((g.lines s).map f).sum =
    ((List.range s).map fun y => f ((List.range s).map fun x => (g.get x y).val)).sum +
      ((List.range s).map fun x => f ((List.range s).map fun y => (g.get x y).val)).sum := by
  rw [Grid.lines, List.map_append, List.sum_append, List.map_map, List.map_map]; rfl

/-- Settles O55: a line is read module by module from its end, and each module in front lengthens the first run or starts one. -/
theorem runPenaltyCountsMaximalRuns : Obligations.RunPenaltyCountsMaximalRuns :=
  ⟨linePenalty1_eq, fun g s => by rw [Grid.penalty1, funext linePenalty1_eq, g.sum_lines]⟩

end Sys2Proof.Machine

/-! Rules 2 to 4 of the mask evaluator: the counts as sizes of sets, and the register scan in natural numbers (46_mask.md R281 to R283). -/

namespace Sys2Proof.Machine

open Sys2Proof.Spec

/-! ## Rules 2 and 4 -/

/-- Counting row by row the places with a property gives the size of their set. -/
theorem sum_countP_eq_card (n : Nat) (p : Nat → Nat → Bool) :
    ((List.range n).map fun y => (List.range n).countP fun x => p x y).sum =
      ((Finset.range n ×ˢ Finset.range n).filter fun q => p q.1 q.2 = true).card := by
  have row (y : Nat) : (List.range n).countP (fun x => p x y) = ((Finset.range n).filter fun x => p x y = true).card := by
    rw [List.countP_eq_length_filter]
    exact congrArg List.length (List.filter_congr fun x _ => by simp)
  simp only [row, Finset.card_filter, Finset.sum_product_right]
  rfl

theorem Grid.penalty2_eq (g : Grid) (s : Nat) : g.penalty2 s =
    3 * ((Finset.range (s - 1) ×ˢ Finset.range (s - 1)).filter fun p => g.uniform2x2 p.1 p.2 = true).card :=
  congrArg (3 * ·) (sum_countP_eq_card (s - 1) g.uniform2x2)

theorem Grid.uniform2x2_iff (g : Grid) (x y : Nat) : g.uniform2x2 x y = true ↔
    (g.get x y).val = (g.get (x + 1) y).val ∧ (g.get x y).val = (g.get x (y + 1)).val ∧ (g.get x y).val = (g.get (x + 1) (y + 1)).val := by
  simp [Grid.uniform2x2, and_assoc]

theorem Grid.darkCount_eq (g : Grid) (s : Nat) :
    g.darkCount s = ((Finset.range s ×ˢ Finset.range s).filter fun p => (g.get p.1 p.2).val = true).card :=
  sum_countP_eq_card s fun x y => (g.get x y).val

/-- The deviation is a distance, which the model takes in natural numbers (46_mask.md R283). -/
theorem darkPenalty_eq (d t : Nat) : darkPenalty d t = 10 * (10 * (2 * (d : Int) - t).natAbs / t) := by
  rw [darkPenalty, show 2 * d - t + (t - 2 * d) = (2 * (d : Int) - t).natAbs by omega]

/-! ## Rule 3 -/

/-- The 11-bit register after one more module (46_mask.md R282). -/
def shiftIn (buf : BitVec 11) (b : Bool) : BitVec 11 := (buf <<< 1) ||| (BitVec.ofBool b).setWidth 11

/-- The register matches, `last` at the line's last module (46_mask.md R282). -/
abbrev Matches (buf : BitVec 11) (last : Prop) : Prop := buf = 0x05D ∨ buf = 0x5D0 ∨ (last ∧ buf &&& 0x7F = 0x5D)

theorem finderMatchesFrom_cons (buf : BitVec 11) (b : Bool) (bs : List Bool) : finderMatchesFrom buf (b :: bs) =
    if Matches (shiftIn buf b) (bs = []) then 1 + finderMatchesFrom 0x0FF bs else finderMatchesFrom (shiftIn buf b) bs := rfl

theorem toNat_shiftIn (buf : BitVec 11) (b : Bool) : (shiftIn buf b).toNat = (2 * buf.toNat + b.toNat) % 0x800 := by
  have hshift : (buf <<< 1).toNat = (buf.toNat % 0x400) <<< 1 := by
    rw [BitVec.toNat_shiftLeft, Nat.shiftLeft_eq, Nat.shiftLeft_eq]; omega
  have hbit : ((BitVec.ofBool b).setWidth 11).toNat = b.toNat := by cases b <;> rfl
  rw [shiftIn, BitVec.toNat_or, hshift, hbit, ← Nat.shiftLeft_add_eq_or_of_lt b.toNat_lt, Nat.shiftLeft_eq]
  have := b.toNat_lt
  omega

theorem matches_iff (buf : BitVec 11) (last : Prop) : Matches buf last ↔
    buf.toNat = 0x05D ∨ buf.toNat = 0x5D0 ∨ (last ∧ buf.toNat % 0x80 = 0x5D) := by
  have hlow : (buf &&& 0x7F).toNat = buf.toNat % 0x80 := by
    rw [BitVec.toNat_and]; exact Nat.and_two_pow_sub_one_eq_mod _ 7
  simp only [Matches, ← BitVec.toNat_inj, hlow]
  rfl

/-- The spec's step at a place of a line shifts the module there in and makes the model's check. -/
theorem scanStep_append (pre : List Bool) (b : Bool) (bs : List Bool) (buf : BitVec 11) (c : Nat) :
    scanStep (pre ++ b :: bs) (buf.toNat, c) pre.length =
      if Matches (shiftIn buf b) (bs = []) then (0x0FF, c + 1) else ((shiftIn buf b).toNat, c) := by
  have hget : (pre ++ b :: bs).getD pre.length false = b := by simp
  have hlast : pre.length = (pre ++ b :: bs).length - 1 ↔ bs = [] := by
    rw [← List.length_eq_zero_iff]; simp
  simp only [scanStep, hget, ← toNat_shiftIn]
  exact if_congr (by rw [hlast, matches_iff]) rfl rfl

/-- The spec's scan from a place of a line on, where the register holds buf and c matches are counted. -/
theorem foldl_scanStep (pre rest : List Bool) (buf : BitVec 11) (c : Nat) :
    ((List.range' pre.length rest.length).foldl (scanStep (pre ++ rest)) (buf.toNat, c)).2 = c + finderMatchesFrom buf rest := by
  induction rest generalizing pre buf c with
  | nil => rfl
  | cons b bs ih =>
    have hrest := ih (pre ++ [b])
    rw [List.append_assoc, List.length_append, List.singleton_append, List.length_singleton] at hrest
    rw [List.length_cons, List.range'_succ, List.foldl_cons, scanStep_append, finderMatchesFrom_cons]
    split
    · rw [← Nat.add_assoc]; exact hrest 0x0FF (c + 1)
    · exact hrest _ c

theorem finderMatches_eq (line : List Bool) : finderMatches line = scanMatches line := by
  have hscan := foldl_scanStep [] line 0 0
  rw [List.nil_append, List.length_nil, ← List.range_eq_range', Nat.zero_add] at hscan
  exact hscan.symm

/-- Settles O56: the windows and the dark modules are counted row by row, and the two scans run the same register. -/
theorem blockPatternAndRatioPenalties : Obligations.BlockPatternAndRatioPenalties := by
  refine ⟨fun g s => ?_, fun g s => ?_, fun g s => ?_⟩
  · rw [g.penalty2_eq]
    simp only [g.uniform2x2_iff]
  · rw [Grid.penalty3, funext finderMatches_eq, g.sum_lines]
  · rw [Grid.penalty4, darkPenalty_eq, g.darkCount_eq]

end Sys2Proof.Machine

/-! What the penalties can come to, and the two commands that store them: GRID_SCORE and MASK_SEARCH (46_mask.md R285, R289, R291, R293). -/

namespace Sys2Proof.Machine

open Sys2Proof.Spec

/-! ## Bounds of the penalties -/

/-- A bound on what each line of a symbol adds bounds their sum: there are 2s lines (46_mask.md R280). -/
theorem Grid.sum_lines_le (g : Grid) {s b : Nat} {f : List Bool → Nat} (hf : ∀ line, line.length = s → f line ≤ b) :
    ((g.lines s).map f).sum ≤ 2 * s * b := by
  have hlen : ∀ line ∈ g.lines s, line.length = s := by
    simp [Grid.lines, Grid.rowLine, Grid.colLine, or_imp, forall_and]
  have hsum := ((g.lines s).map f).sum_le_card_nsmul b fun n hn => by
    obtain ⟨line, hline, rfl⟩ := List.mem_map.1 hn
    exact hf line (hlen line hline)
  rwa [List.length_map, show (g.lines s).length = 2 * s by simp [Grid.lines]; omega, smul_eq_mul] at hsum

theorem sum_runsAfter_le (c : Bool) (n : Nat) (line : List Bool) : ((runsAfter c n line).map runPenalty).sum ≤ n + line.length - 2 := by
  have hrun (l : Nat) : runPenalty l ≤ l - 2 := by unfold runPenalty; split <;> omega
  induction line generalizing c n with
  | nil => simpa [runsAfter] using hrun n
  | cons b bs ih =>
    rw [runsAfter, List.length_cons]
    split
    · have := ih c (n + 1); omega
    · have := hrun n
      have := ih b 1
      rw [List.map_cons, List.sum_cons]; omega

/-- Cutting a run costs at least 2, so a line adds the most when it is one run. -/
theorem linePenalty1_le (line : List Bool) : linePenalty1 line ≤ line.length - 2 := by
  cases line with
  | nil => exact le_rfl
  | cons b bs => exact (sum_runsAfter_le b 1 bs).trans_eq (by rw [List.length_cons, Nat.add_comm])

/-- At most one match per module (46_mask.md R285). -/
theorem finderMatchesFrom_le (buf : BitVec 11) (line : List Bool) : finderMatchesFrom buf line ≤ line.length := by
  induction line generalizing buf with
  | nil => exact le_rfl
  | cons b bs ih =>
    rw [List.length_cons]
    have hmatch := ih 0x0FF
    have hgo := ih (shiftIn buf b)
    rw [finderMatchesFrom_cons]
    split <;> omega

/-- No deviation is above 50 %, ten steps of 5 % (46_mask.md R283). -/
theorem darkPenalty_le {d t : Nat} (h : d ≤ t) : darkPenalty d t ≤ 100 := by
  have hsteps : 10 * (2 * d - t + (t - 2 * d)) / t ≤ 10 := Nat.div_le_of_le_mul (by omega)
  rw [darkPenalty]; omega

section

variable (g : Grid) {s : Nat} (hs : s ≤ 177)

include hs

theorem Grid.penalty1_le : g.penalty1 s ≤ 61950 :=
  calc g.penalty1 s ≤ 2 * s * (s - 2) := g.sum_lines_le fun line hline => hline ▸ linePenalty1_le line
    _ ≤ 2 * 177 * 175 := Nat.mul_le_mul (by omega) (by omega)

theorem Grid.penalty2_le : g.penalty2 s ≤ 92928 := by
  rw [g.penalty2_eq]
  calc _ ≤ 3 * (Finset.range (s - 1) ×ˢ Finset.range (s - 1)).card := Nat.mul_le_mul_left 3 (Finset.card_filter_le _ _)
    _ = 3 * ((s - 1) * (s - 1)) := by rw [Finset.card_product, Finset.card_range]
    _ ≤ 3 * (176 * 176) := Nat.mul_le_mul_left 3 (Nat.mul_le_mul (by omega) (by omega))

theorem Grid.penalty3_le : g.penalty3 s ≤ 2506320 :=
  calc g.penalty3 s ≤ 40 * (2 * s * s) :=
        Nat.mul_le_mul_left 40 (g.sum_lines_le fun line hline => hline ▸ finderMatchesFrom_le 0 line)
    _ ≤ 40 * (2 * 177 * 177) := Nat.mul_le_mul_left 40 (Nat.mul_le_mul (by omega) hs)

omit hs in
theorem Grid.penalty4_le (s : Nat) : g.penalty4 s ≤ 100 := by
  refine darkPenalty_le ?_
  rw [g.darkCount_eq]
  exact (Finset.card_filter_le _ _).trans_eq (by rw [Finset.card_product, Finset.card_range])

/-- The five registers of a score hold the penalties and their sum (46_mask.md R284, R285). -/
theorem Grid.toNat_scores : (g.scores s).p1.toNat = g.penalty1 s ∧ (g.scores s).p2.toNat = g.penalty2 s ∧
    (g.scores s).p3.toNat = g.penalty3 s ∧ (g.scores s).p4.toNat = g.penalty4 s ∧
    (g.scores s).total.toNat = g.penalty1 s + g.penalty2 s + g.penalty3 s + g.penalty4 s := by
  have h1 := g.penalty1_le hs
  have h2 := g.penalty2_le hs
  have h3 := g.penalty3_le hs
  have h4 := g.penalty4_le s
  simp only [Grid.scores, BitVec.toNat_ofNat]
  omega

end

/-- Settles O57: each line adds at most what one run, or a match at each of its modules, adds. -/
theorem scoresFitTheirRegisters : Obligations.ScoresFitTheirRegisters := fun g s _ hs => by
  have h1 := g.penalty1_le hs
  have h2 := g.penalty2_le hs
  have h3 := g.penalty3_le hs
  have h4 := g.penalty4_le s
  obtain ⟨e1, e2, e3, e4, etotal⟩ := g.toNat_scores hs
  exact ⟨h1, h2, h3, h4, e1, e2, e3, e4, etotal, by rw [etotal]; omega⟩

/-! ## GRID_SCORE -/

section

variable {m : Byte} {s : State}

theorem exec_gridScore_of_mask (hm : 8 ≤ m.toNat) : exec (.gridScore m) s = trap .badMask s := dif_neg hm.not_gt

theorem exec_gridScore_of_noGrid (hm : m.toNat < 8) (hv : s.gridVer = 0) : exec (.gridScore m) s = trap .noGrid s :=
  (dif_pos hm).trans (if_pos hv)

theorem exec_gridScore (hm : m.toNat < 8) (hv : s.gridVer ≠ 0) : exec (.gridScore m) s =
    .next { s with score := s.score.set m.toNat (s.grid.scores (side s.gridVer)), done := true, pending := none } :=
  (dif_pos hm).trans (if_neg hv)

end

/-- Settles O58: the slot and the held grid are checked in this order, and the scores of a symbol's grid fit their registers. -/
theorem gridScoreWritesOneSlot : Obligations.GridScoreWritesOneSlot := by
  refine ⟨fun m => decode_eq_ok_iff_encode_eq.2 (toWord_immediate1 0x48 m), fun _ => raisesIllegal_of_reserved (.gridScore 0) rfl rfl,
    fun m s w hw => ⟨fun hm => ?_, fun hm hv => ?_, fun hm hv h40 => ⟨_, exec_gridScore hm hv, fun k hk => ?_, fun k hk => ?_⟩⟩⟩
  · exact (exec_gridScore_of_mask hm).trans (trap_eq_faulted hw .badMask)
  · exact (exec_gridScore_of_noGrid hm hv).trans (trap_eq_faulted hw .noGrid)
  · exact Vector.getElem_set_ne _ _ hk.symm
  · obtain ⟨e1, e2, e3, e4, etotal⟩ := s.grid.toNat_scores (side_le_of_isVersion (isVersion_of_ne_zero hv h40))
    simp only [Fin.getElem_fin, hk, Vector.getElem_set_self, sideOf_eq_side]
    exact ⟨e1, e2, e3, e4, by rw [e1, e2, e3, e4, etotal]⟩

/-! ## MASK_SEARCH -/

theorem bestUpTo_le (t : Nat → Word) (n : Nat) : bestUpTo t n ≤ n := by
  induction n with
  | zero => exact le_rfl
  | succ n ih => rw [bestUpTo]; split <;> omega

/-- The kept mask has the least total of those seen, and each mask before it a greater one (46_mask.md R291). -/
theorem bestUpTo_spec (t : Nat → Word) (n : Nat) :
    (∀ m ≤ n, t (bestUpTo t n) ≤ t m) ∧ ∀ m < bestUpTo t n, t (bestUpTo t n) < t m := by
  induction n with
  | zero => exact ⟨fun m hm => by rw [Nat.le_zero.1 hm]; exact BitVec.le_refl _, fun m hm => absurd hm m.not_lt_zero⟩
  | succ n ih =>
    obtain ⟨hmin, hfirst⟩ := ih
    rw [bestUpTo]
    split
    case isTrue hlt =>
      have hnew (m : Nat) (hm : m ≤ n) : t (n + 1) < t m := Nat.lt_of_lt_of_le hlt (hmin m hm)
      refine ⟨fun m hm => ?_, fun m hm => hnew m (Nat.lt_succ_iff.1 hm)⟩
      obtain hm | rfl := Nat.le_succ_iff.1 hm
      · exact BitVec.le_of_lt (hnew m hm)
      · exact BitVec.le_refl _
    case isFalse hge =>
      refine ⟨fun m hm => ?_, hfirst⟩
      obtain hm | rfl := Nat.le_succ_iff.1 hm
      · exact hmin m hm
      · exact BitVec.not_lt.1 hge

/-- The total of slot m, as MASK_SEARCH reads it. -/
def slotTotal (score : Vector Scores 8) (m : Nat) : Word := (score.toList.getD m .zero).total

theorem slotTotal_eq (score : Vector Scores 8) (m : Fin 8) : slotTotal score m.val = score[m].total := by
  rw [slotTotal, List.getD_eq_getElem _ _ (by simp), Vector.getElem_toList]; rfl

/-- The least slot of the least total (46_mask.md R291). Irreducible, so that no check of an equality of states runs the search. -/
@[irreducible] def bestSlot (score : Vector Scores 8) : Fin 8 := ⟨bestUpTo (slotTotal score) 7, Nat.lt_succ_iff.2 (bestUpTo_le _ 7)⟩

theorem val_bestSlot (score : Vector Scores 8) : (bestSlot score).val = bestUpTo (slotTotal score) 7 := by rw [bestSlot]

theorem bestSlot_spec (score : Vector Scores 8) : (∀ m : Fin 8, score[bestSlot score].total ≤ score[m].total) ∧
    ∀ m : Fin 8, m < bestSlot score → score[bestSlot score].total < score[m].total := by
  obtain ⟨hmin, hfirst⟩ := bestUpTo_spec (slotTotal score) 7
  simp only [← slotTotal_eq, val_bestSlot, Fin.lt_def]
  exact ⟨fun m => hmin m.val (Nat.lt_succ_iff.1 m.isLt), fun m => hfirst m.val⟩

/-- The scores of the grids that GRID_BUILD gives for the eight masks (46_mask.md R291). -/
def maskScores (v : BitVec 6) (level : BitVec 2) (bits : List Bool) : Vector Scores 8 :=
  tabulate 8 fun m => (builtGrid v level bits m).scores (side v)

theorem getElem_maskScores (v : BitVec 6) (level : BitVec 2) (bits : List Bool) (m : Fin 8) :
    (maskScores v level bits)[m] = (builtGrid v level bits m.val).scores (side v) := getElem_tabulate 8 _ m.val m.isLt

/-- The mask that MASK_SEARCH keeps (46_mask.md R291). -/
def keptMask (v : BitVec 6) (level : BitVec 2) (bits : List Bool) : Fin 8 := bestSlot (maskScores v level bits)

/-- The state after a completed MASK_SEARCH (46_mask.md R291). -/
def State.maskSearched (s : State) : State :=
  { s with
    score := maskScores s.version s.level s.cw.bits
    grid := builtGrid s.version s.level s.cw.bits (keptMask s.version s.level s.cw.bits).val
    gridVer := s.version
    bestValid := true
    bestMask := .ofFin (keptMask s.version s.level s.cw.bits)
    bestPen := (maskScores s.version s.level s.cw.bits)[keptMask s.version s.level s.cw.bits].total
    done := true
    pending := none }

/-- MASK_SEARCH completes with what it found (40_command.md R133). -/
theorem finish_maskSearch (s : State) (score : Vector Scores 8) (g : Grid) (v : BitVec 6) (m : BitVec 3) (p : Word) :
    finish { s with score := score, grid := g, gridVer := v, bestValid := true, bestMask := m, bestPen := p } =
      .next { s with score := score, grid := g, gridVer := v, bestValid := true, bestMask := m, bestPen := p, done := true, pending := none } :=
  rfl

section

variable {s : State}

theorem exec_maskSearch_of_not_version (hv : ¬ IsVersion s.version) : exec .maskSearch s = trap .badConfig s :=
  if_pos (versionOk_eq_false_iff.2 hv)

theorem exec_maskSearch_of_capacity (hv : IsVersion s.version) (hlen : s.cw.len.toNat ≠ dataModules s.version) :
    exec .maskSearch s = trap .capacity s :=
  (if_neg (mt versionOk_eq_false_iff.1 (not_not.2 hv))).trans (if_pos hlen)

theorem exec_maskSearch (hv : IsVersion s.version) (hlen : s.cw.len.toNat = dataModules s.version) :
    exec .maskSearch s = .next s.maskSearched := by
  have hmask (b : Fin 8) : BitVec.ofNat 3 b.val = .ofFin b := BitVec.eq_of_toNat_eq (Nat.mod_eq_of_lt b.isLt)
  rw [State.maskSearched, ← slotTotal_eq, ← hmask, keptMask, val_bestSlot]
  exact (if_neg (mt versionOk_eq_false_iff.1 (not_not.2 hv))).trans
    ((if_neg (not_not.2 hlen)).trans (finish_maskSearch s _ _ _ _ _))

end

/-- A second MASK_SEARCH reads the VERSION, LEVEL and CW that the first one kept (46_mask.md R293). -/
theorem State.maskSearched_again (s : State) (w : Word) :
    { s.maskSearched with pending := some w, lastcmd := w, done := false }.maskSearched = { s.maskSearched with lastcmd := w } := rfl

/-- The chosen mask's slot holds the scores of the final grid (46_mask.md R293). -/
theorem State.score_maskSearched (s : State) : s.maskSearched.score[keptMask s.version s.level s.cw.bits] =
    s.maskSearched.grid.scores (side s.version) := getElem_maskScores _ _ _ _

/-- Settles O59: the checks in order, and the mask kept is the first of the least total. -/
theorem maskSearchKeepsTheBestMask : Obligations.MaskSearchKeepsTheBestMask := by
  refine ⟨decode_eq_ok_iff_encode_eq.2 (by decide), fun _ => raisesIllegal_of_fixedWord .maskSearch rfl, fun s w hw =>
    ⟨fun hv => ?_, fun hv hlen => ?_, fun hv hlen => ⟨_, _, exec_maskSearch hv hlen, getElem_maskScores _ _ _, bestSlot_spec _⟩⟩⟩
  · exact (exec_maskSearch_of_not_version hv).trans (trap_eq_faulted hw .badConfig)
  · exact (exec_maskSearch_of_capacity hv hlen).trans (trap_eq_faulted hw .capacity)

/-- Settles O60: MASK_SEARCH keeps what it reads, and the final grid has the scores in the slot of the chosen mask. -/
theorem maskSearchIsIdempotent : Obligations.MaskSearchIsIdempotent := by
  intro s t w w' hv hlen ht
  obtain rfl : s.maskSearched = t := Host.Outcome.next.inj ((exec_maskSearch hv hlen).symm.trans ht)
  refine ⟨?_, fun m b hm hb => ?_⟩
  · rw [exec_maskSearch, s.maskSearched_again]
    exacts [hv, hlen]
  · obtain rfl : keptMask s.version s.level s.cw.bits = b := BitVec.ofFin.inj hb
    rw [s.score_maskSearched]
    exact exec_gridScore hm (ne_zero_of_isVersion hv)

end Sys2Proof.Machine

/-! The exceptions: the codes that a command can raise, the acknowledgement of the flags, and the interrupt output
(60_exceptions.md R311 to R320). -/

namespace Sys2Proof.Machine

open Sys2Proof.Spec

/-! ## The codes of a command -/

/-- `EndsWithin codes s o`: o is a completion that writes outputs only, or an error whose code is one of codes (40_command.md R133,
60_exceptions.md R311). -/
def EndsWithin (codes : List (BitVec 8)) (s : State) (o : Outcome) : Prop :=
  (∃ u, o = finish u ∧ s.OutputsOnly u) ∨ ∃ e : ErrCode, e.code ∈ codes ∧ o = trap e s

section
variable {codes : List (BitVec 8)} {s : State}

theorem EndsWithin.finish {u : State} (h : s.OutputsOnly u) : EndsWithin codes s (finish u) := .inl ⟨u, rfl, h⟩

theorem EndsWithin.trap {e : ErrCode} (h : e.code ∈ codes) : EndsWithin codes s (trap e s) := .inr ⟨e, h, rfl⟩

/-- The code of a command's first check. -/
theorem EndsWithin.trap_head {e : ErrCode} : EndsWithin (e.code :: codes) s (Machine.trap e s) := .trap List.mem_cons_self

/-- The code of a command's second check. -/
theorem EndsWithin.trap_second {c : BitVec 8} {e : ErrCode} : EndsWithin (c :: e.code :: codes) s (Machine.trap e s) :=
  .trap (.tail _ List.mem_cons_self)

/-- The code of a command's third check. -/
theorem EndsWithin.trap_third {c c' : BitVec 8} {e : ErrCode} : EndsWithin (c :: c' :: e.code :: codes) s (Machine.trap e s) :=
  .trap (.tail _ (.tail _ List.mem_cons_self))

/-- A check of a command decides between two ends. -/
theorem EndsWithin.ite {c : Prop} [Decidable c] {a b : Outcome} (ha : EndsWithin codes s a) (hb : EndsWithin codes s b) :
    EndsWithin codes s (if c then a else b) := by
  split
  · exact ha
  · exact hb

end

/-- Each check of a command raises a code that R312 lists for it. -/
theorem exec_endsWithin_faultCodes (i : Instr) (s : State) : EndsWithin (faultCodes i) s (exec i s) := by
  cases i with
  | nop => exact .finish (.refl s)
  | gfMul a b => exact .finish (.writeResult s _)
  | gfDiv a b => exact .ite .trap_head (.finish (.writeResult s _))
  | gfInv a => exact .ite .trap_head (.finish (.writeResult s _))
  | pAdd rd ra rb =>
    show EndsWithin _ s (execPAdd rd ra rb s)
    unfold execPAdd; split
    · exact .finish (.writePoly s _ _)
    · exact .trap_head
  | pMul rd ra rb =>
    show EndsWithin _ s (execPMul rd ra rb s)
    unfold execPMul; split
    · exact .ite .trap_second (.finish (.writePoly s _ _))
    · exact .trap_head
  | pRem rd ra rb =>
    show EndsWithin _ s (execPRem rd ra rb s)
    unfold execPRem; split
    · exact .ite .trap_second (.finish (.writePoly s _ _))
    · exact .trap_head
  | pMono rd c k => exact .finish (.writePoly s _ _)
  | pGen rd n => exact .finish (.writePoly s _ _)
  | pRsenc rd ra n =>
    show EndsWithin _ s (execPRsenc rd ra n s)
    unfold execPRsenc; split
    · exact .finish (.writePoly s _ _)
    · exact .trap_head
  | bvClear => exact .finish (.setBv s _)
  | bvAppend n => exact .ite .trap_head (.ite .trap_second (.finish (.setBv s _)))
  | bvAt => exact .ite .trap_head (.finish (.writeResult s _))
  | bvByteat => exact .ite .trap_head (.finish (.writeResult s _))
  | eccInterleave => exact .ite .trap_head (.ite .trap_second (.ite .trap_third (.finish (.setCw s _))))
  | gridClear => exact .ite (.finish (.writeGrid s _ _)) .trap_head
  | gridStruct => exact .ite (.finish (.writeGrid s _ _)) .trap_head
  | gridMeta m => exact .ite .trap_head (.ite .trap_second (.finish (.setGrid s _)))
  | gridData m => exact .ite .trap_head (.ite .trap_second (.ite .trap_third (.finish (.setGrid s _))))
  | gridBuild m => exact .ite .trap_head (.ite .trap_second (.ite .trap_third (.finish (.writeGrid s _ _))))
  | gridScore m =>
    show EndsWithin _ s (execGridScore m s)
    unfold execGridScore; split
    · exact .ite .trap_second (.finish (.setScore s _))
    · exact .trap_head
  | maskSearch => exact .ite .trap_head (.ite .trap_second (.finish (.setSearch s _ _ _ _ _)))

/-- Settles O22: a completion writes outputs only, which leaves the error record, and an error enters with a code of the command. -/
theorem commandsCompleteOrFaultPrecisely : Obligations.CommandsCompleteOrFaultPrecisely := by
  intro i s w hw
  obtain ⟨u, hu, hout⟩ | ⟨e, he, htrap⟩ := exec_endsWithin_faultCodes i s
  · refine .inl ⟨u.complete, hu, u.complete_done, u.complete_pending, ?_⟩
    rw [hout]
    exact ⟨rfl, rfl, rfl⟩
  · exact .inr ⟨e.code, he, htrap.trans (trap_eq_faulted hw e)⟩

/-! ## STATUS writes -/

theorem sequencerTurn_idle {s : State} (hidle : s.pending = none) : sequencerTurn s = .next s := by
  rw [sequencerTurn, hidle]

/-- With no command pending the sequencer's turn only passes (40_command.md R132). -/
theorem step_sequencer_idle {s : State} {ts : List Turn} (hidle : s.pending = none) (h : SequencerNext s ts) :
    step s = .next { s with turns := ts } := by
  unfold step
  obtain ⟨hts, rfl⟩ | hts := h <;> rw [hts]
  · exact (sequencerTurn_idle hidle).trans (by rw [← hts])
  · exact sequencerTurn_idle hidle

/-- Nothing is pending after the sequencer's turn, whether it had a command or not. -/
theorem step_sequencer_leaves_idle {s : State} {ts : List Turn} (h : SequencerNext s ts) :
    ∃ t, step s = .next t ∧ t.pending = none := by
  by_cases hidle : s.pending = none
  · exact ⟨_, step_sequencer_idle hidle h, hidle⟩
  · exact step_sequencer_clears_pending hidle h

/-- A CMD write while BUSY = 0 and ERR = 0 is accepted (40_command.md R131). -/
theorem step_write_cmd_accepted {s : State} {w : Word} {ts : List Turn} (hidle : s.pending = none) (herr : s.err = false)
    (h : WriteNext s 0x00C w ts) : ∃ t, step s = .next t ∧ t.pending = some w ∧ t.lastcmd = w ∧ t.done = false :=
  ⟨_, step_write_cmd_idle hidle h, by simp [herr]⟩

/-- Settles O15: a STATUS write has its effect at any time, the sequencer's next turn ends what was pending, and without ERR a CMD write
is accepted. -/
theorem statusWriteClearsTheFlags : Obligations.StatusWriteClearsTheFlags := by
  intro s v ts h
  refine ⟨step_write_status h, fun t ts' _ hseq => step_sequencer_leaves_idle hseq, fun hv hidle t w ts' ht hcmd => ?_⟩
  obtain rfl := Host.Outcome.next.inj ((step_write_status h).symm.trans ht)
  exact step_write_cmd_accepted hidle (by simp [hv]) hcmd

/-! ## The interrupt output -/

theorem State.irq_iff (s : State) : s.irq = true ↔ s.irqEn = true ∧ (s.done = true ∨ s.err = true) := by
  simp [State.irq]

/-- Acknowledging every flag that is set takes IRQ to 0 (60_exceptions.md R315, R320). -/
theorem State.irq_writeStatus {s : State} {v : Word} (hdone : s.done = true → v.getLsbD 1 = true)
    (herr : s.err = true → v.getLsbD 2 = true) : (s.writeStatus v).irq = false := by
  rw [← Bool.not_eq_true, State.irq_iff]
  simp only [State.writeStatus_done, State.writeStatus_err, Bool.and_eq_true, Bool.not_eq_true']
  rintro ⟨-, ⟨hd, hv⟩ | ⟨he, hv⟩⟩
  · exact absurd (hdone hd) (ne_true_of_eq_false hv)
  · exact absurd (herr he) (ne_true_of_eq_false hv)

/-- Clearing IRQ_EN takes IRQ to 0, and so does the reset of a CTRL write with SRESET (60_exceptions.md R320,
70_reset_and_hazards.md R341). -/
theorem State.irq_writeCtrl {v : Word} (hv : v.getLsbD 0 = false) (s : State) : (s.writeCtrl v).irq = false := by
  cases hreset : v.getLsbD 31
  · rw [State.writeCtrl_of_not_sreset hreset, State.irq, hv, Bool.false_and]
  · rw [State.writeCtrl_of_sreset hreset]; rfl

/-- Settles O16: R320's formula, and the two writes that take it to 0. -/
theorem interruptFollowsDoneAndErr : Obligations.InterruptFollowsDoneAndErr := by
  refine ⟨State.irq_iff, rfl, fun s v ts => ⟨fun t h hdone herr ht => ?_, fun t h hv ht => ?_⟩⟩
  · obtain rfl := Host.Outcome.next.inj ((step_write_status h).symm.trans ht)
    exact State.irq_writeStatus (s := { s with turns := ts }) hdone herr
  · obtain rfl := Host.Outcome.next.inj ((step_write_ctrl h).symm.trans ht)
    exact State.irq_writeCtrl hv _

end Sys2Proof.Machine

/-! The resets and the end of the turn list: both resets give the reset state, which is idle and meets the invariant, and a run past
its turns leaves no command pending (70_reset_and_hazards.md R340 to R356). -/

namespace Sys2Proof.Machine

open Sys2Proof.Spec

/-! ## The reset state -/

/-- EMPTY is 0 while there is no grid (10_state.md R38). -/
theorem unusedModules_of_noGrid {s : State} (h : s.gridVer = 0) : unusedModules s = 0 := if_pos h

/-- SIZE is 0 while there is no grid (10_state.md R39). -/
theorem State.sizeWord_of_noGrid {s : State} (h : s.gridVer = 0) : s.sizeWord = 0 := if_pos h

theorem State.afterReset_scoreSlot (d : Nat) (m : Fin 8) : (State.afterReset d).score[m] = ⟨0, 0, 0, 0, 0⟩ := by
  simp [Scores.zero]

/-- A register with PLEN = 0 holds the zero polynomial, whatever its coefficients are (42_gfpoly.md R170). -/
theorem PolyReg.value_of_len_zero {p : PolyReg} (h : p.len = 0) : p.value = [] := by
  rw [PolyReg.value, h]; rfl

/-- The first reset is a reset with no value drawn before it and the host's side at rest. -/
theorem State.reset_eq_resetCore : State.reset = State.resetCore { State.reset with draws := 0 } := rfl

/-- Settles O20: the reset state is the outcome of a reset, and every reset gives the invariant. -/
theorem resetMeetsTheInvariant : Obligations.ResetMeetsTheInvariant := by
  unfold Obligations.ResetMeetsTheInvariant
  rw [State.reset_eq_resetCore]
  exact State.resetCore_inv _

/-- Settles O14: the registers by the laws of the reset state, EMPTY and SIZE because there is no grid, and the step because nothing is
pending and no turn is left. -/
theorem resetStateIsIdle : Obligations.ResetStateIsIdle :=
  ⟨rfl, rfl, rfl, rfl, rfl, rfl, rfl, rfl, rfl, rfl, rfl, rfl, rfl, rfl, rfl, rfl, rfl, rfl, rfl, rfl, State.afterReset_scoreSlot 0,
    rfl, rfl, rfl, unusedModules_of_noGrid rfl, State.sizeWord_of_noGrid rfl, rfl,
    fun p => ⟨State.afterReset_plen 0 p, PolyReg.value_of_len_zero (State.afterReset_plen 0 p), fun i =>
      (State.afterReset_coeff 0 p i).trans (by rw [Nat.zero_add])⟩,
    step_sequencer_idle (s := State.reset) rfl (.inl ⟨rfl, rfl⟩)⟩

/-! ## The resets -/

/-- A CTRL write with SRESET and the reset input have one effect, whatever else the word holds and whatever is pending
(70_reset_and_hazards.md R340, R341). -/
theorem step_reset {s : State} {ts : List Turn} (h : (∃ v, WriteNext s 0x004 v ts ∧ v.getLsbD 31 = true) ∨ s.turns = .hardReset :: ts) :
    step s = .next (State.resetCore { s with turns := ts }) := by
  obtain ⟨v, hwrite, hv⟩ | hts := h
  · rw [step_write_ctrl hwrite, State.writeCtrl_of_sreset hv]
  · rw [step, hts]; rfl

/-- Settles O13: both resets step to `resetCore`, whose registers are those of the reset state and whose draws start at the counter. -/
theorem resetGivesTheResetState : Obligations.ResetGivesTheResetState := fun s _ h =>
  ⟨_, step_reset h, rfl, rfl, rfl, rfl, rfl, rfl, rfl, rfl, rfl, rfl, rfl, rfl, rfl, rfl, rfl, rfl, rfl, rfl, rfl, rfl,
    unusedModules_of_noGrid rfl, State.sizeWord_of_noGrid rfl, rfl, rfl, State.afterReset_scoreSlot s.draws,
    fun p => ⟨State.afterReset_plen s.draws p, State.afterReset_coeff s.draws p⟩⟩

/-! ## The turns of a run -/

theorem State.hostRead_turns (s : State) (off : BitVec 20) : (s.hostRead off).turns = s.turns := by
  rw [State.hostRead_eq]

theorem State.writeGrid_turns (s : State) (x y : Nat) (v : Word) : (s.writeGrid x y v).turns = s.turns := by
  unfold State.writeGrid; split <;> rfl

/-- A write of the host leaves its later turns, a soft reset too (70_reset_and_hazards.md R341). -/
theorem State.hostWrite_turns (s : State) (off : BitVec 20) (v : Word) : (s.hostWrite off v).turns = s.turns := by
  obtain ⟨-, -, heq⟩ | ⟨-, heq⟩ := State.hostWrite_cases s off v <;> rw [heq]
  · exact s.refuseWrite_turns off
  · obtain ⟨-, -, heq⟩ | ⟨-, heq⟩ | ⟨-, heq⟩ | ⟨x, y, -, heq⟩ | hu := State.writeTarget_cases s v (.ofOffset off)
    · rw [heq]; exact s.resetCore_turns
    · rw [heq]; exact s.writeStatus_turns v
    · rw [heq]; exact s.offerCommand_turns v
    · rw [heq]; exact s.writeGrid_turns x y v
    · rw [hu]

theorem runCommand_turns {w : Word} {s t : State} (h : runCommand w s = .next t) : t.turns = s.turns := by
  obtain ⟨i, -, hi⟩ | ⟨-, htrap⟩ := runCommand_cases h
  · obtain ⟨-, -, -, -, -, -, -, -, hturns, -, -⟩ := commandsWriteNoHostRegister i s t hi.symm
    exact hturns
  · cases htrap; exact s.raise_turns _

/-- A step uses up one turn, if there is one (log 1). -/
theorem step_turns {s t : State} (h : step s = .next t) : t.turns = s.turns.tail := by
  obtain ⟨ts, hts, hseq⟩ | ⟨ts, hts, rfl⟩ | ⟨off, ts, hts, -, rfl⟩ | ⟨off, v, ts, hts, -, rfl⟩ := step_cases h
  · have htail : s.turns.tail = ts := by
      obtain ⟨hts, rfl⟩ | hts := hts <;> rw [hts] <;> rfl
    rw [htail]
    obtain ⟨-, rfl⟩ | ⟨w, -, hrun⟩ := hseq
    · rfl
    · exact runCommand_turns hrun
  · rw [hts]; rfl
  · rw [State.hostRead_turns, hts]; rfl
  · rw [State.hostWrite_turns, hts]; rfl

theorem run_succ_of_step {M : Host.Core} {s t : M.State} (h : M.step s = .next t) (k : Nat) : M.run (k + 1) s = M.run k t := by
  rw [Host.Core.run, h]

/-- With the turns used up, the sequencer's step is next, and it leaves nothing pending (log 10). -/
theorem step_past_turns {s : State} (h : s.turns = []) : ∃ t, step s = .next t ∧ t.pending = none ∧ t.turns = [] := by
  obtain ⟨t, hstep, hidle⟩ := step_sequencer_leaves_idle (.inl ⟨h, rfl⟩)
  exact ⟨t, hstep, hidle, by rw [step_turns hstep, h]; rfl⟩

/-- A run takes the turns one by one, each of which answers a next state inside the bus contract, and then the sequencer's step. -/
theorem run_past_turns (ts : List Turn) (hts : ∀ t ∈ ts, t.wellFormed = true) (s : State) (h : s.turns = ts) :
    ∃ t, core.run (ts.length + 1) s = .next t ∧ t.pending = none ∧ t.turns = [] := by
  induction ts generalizing s with
  | nil =>
    obtain ⟨t, hstep, hend⟩ := step_past_turns h
    exact ⟨t, run_succ_of_step (M := core) hstep 0, hend⟩
  | cons tn ts ih =>
    obtain ⟨htn, hrest⟩ := List.forall_mem_cons.1 hts
    obtain ⟨u, hu⟩ := stepsInsideTheContractAnswerNext s fun t ts' ht => by
      rw [h] at ht; cases ht; exact htn
    obtain ⟨t, hrun, hend⟩ := ih hrest u (by rw [step_turns hu, h]; rfl)
    exact ⟨t, (run_succ_of_step (M := core) hu _).trans hrun, hend⟩

/-- Settles O21, by induction on the turns left. -/
theorem pendingCommandsComplete : Obligations.PendingCommandsComplete := fun s h => run_past_turns s.turns h s rfl

end Sys2Proof.Machine
